-- ==== Sys2Proof/Word.lean ====
section
/-! DEFINITION. The word types of the block: everything it computes with is an unsigned bit vector
(00_scope.md section 4). -/

namespace Sys2Proof

/-- A register, a mask or a byte on the bus (10_state.md R20, R28). -/
abbrev Byte := BitVec 8

/-- The 20-bit event word `op, a, b` (30_encoding.md R74). -/
abbrev EventWord := BitVec 20

/-- The 8-bit dispatch key `op[3:0], st[2:0], ph` (30_encoding.md R79). -/
abbrev Key := BitVec 8

end Sys2Proof
end

