-- ==== Sys2Proof/Config.lean ====
section
/-! DEFINITION. The open parameters of the block (00_scope.md R6, 92_eei_decisions.md). They are plain data that
State carries unchanged, so that a statement over all states holds for every value of them (log entry 3). -/

namespace Sys2Proof

/-- `READ_ORDER` (R6, D11): the order of pointer advance and byte load on a master ACK (R142). -/
inductive ReadOrder where
  | advanceThenLoad
  | loadThenAdvance
  deriving DecidableEq, Repr

/-- `DRAIN_ATOMICITY` (R6, D13): how much of DRAIN is one indivisible step (R170). -/
inductive DrainAtomicity where
  | inner
  | whole
  deriving DecidableEq, Repr

/-- The parameters the spec leaves open, beside `REG_INIT`, which is an argument of INIT. -/
structure Params where
  /-- `DIRTY_W`, the width of `dirty` in bits, at least 1 (R6, D14): INIT refuses 0 (R7). -/
  dirtyW : Nat
  readOrder : ReadOrder
  /-- `START_WAIT_ABORT`: whether the wait at a start condition may be abandoned (D17). -/
  startWaitAbort : Bool
  drainAtomicity : DrainAtomicity
  deriving DecidableEq, Repr

/-- The defaults of 92_eei_decisions.md, "Open parameters, in one place". -/
def Params.standard : Params :=
  { dirtyW := 8, readOrder := .advanceThenLoad, startWaitAbort := false, drainAtomicity := .inner }

end Sys2Proof
end

