-- ==== Sys2Proof/Syntax.lean ====
section
/-! DEFINITION. The operations of the block, one constructor per row of spec/opcode_table.json, and the
enumerations they and the state are written with. -/

namespace Sys2Proof

/-- `st`, the document's `ProtocolState` (10_state.md R23), with the three reserved codes of its 3-bit
register (30_encoding.md R70, R80), so that the BYTE.ILL rows have a meaning (R153, log entry 8). -/
inductive ProtocolState where
  | addressMatch
  | registerAddress
  | masterRead
  | masterWrite
  | idle
  | reserved5
  | reserved6
  | reserved7
  deriving DecidableEq, Repr

/-- `ph`: the half of the byte exchange the next BYTE ends (10_state.md R24). -/
inductive Phase where
  | pre
  | post
  deriving DecidableEq, Repr

/-- `drv`: what the block asks the serial interface to do with the data line (10_state.md R33). -/
inductive Drive where
  | release
  | ackLow
  | byte (v : Byte)
  deriving DecidableEq, Repr

/-- `MASK_MODE` (10_state.md R28). -/
inductive MaskMode where
  | globalMask
  | perReg
  deriving DecidableEq, Repr

/-- The mask argument of INIT: `mask=<byte>` or `mask=[<byte>,...]` (30_encoding.md R82). -/
inductive MaskArg where
  | globalMask (m : Byte)
  | perReg (ms : List Byte)
  deriving DecidableEq, Repr

/-- The arguments that travel beside INIT's event word (45_host_ops.md R160). `addr` and `n` are numbers,
not bit vectors, so that a configuration out of range can be written down and refused (U1). -/
structure InitArgs where
  addr : Nat
  n : Nat
  mask : MaskArg
  /-- `REG_INIT[0..N-1]` (D25). -/
  reg : List Byte
  deriving DecidableEq, Repr

/-- The operations. A BYTE row carries the byte `rx` of its event word (R110); HRD and HWR carry the index
and the value (R166, R167). -/
inductive Instr where
  | init (args : InitArgs)
  | start
  | scllow
  | abort
  | byteAmNak (rx : Byte)
  | byteAmRd (rx : Byte)
  | byteAmWr (rx : Byte)
  | byteAmPost (rx : Byte)
  | byteRaNak (rx : Byte)
  | byteRaLoad (rx : Byte)
  | byteRaPost (rx : Byte)
  | byteMrPre (rx : Byte)
  | byteMrNak (rx : Byte)
  | byteMrAck (rx : Byte)
  | byteMwData (rx : Byte)
  | byteMwPost (rx : Byte)
  | byteIdPre (rx : Byte)
  | byteIdPost (rx : Byte)
  | byteIll5 (rx : Byte)
  | byteIll67 (rx : Byte)
  | stop
  | drainHit
  | drainMiss
  | drainT
  | drainC
  | ongoing
  | hrd (i : Byte)
  | hwr (i v : Byte)
  deriving DecidableEq, Repr

/-- What the choice of a row looks at besides the event word (30_encoding.md R79): the key's state and phase,
and the inputs of the rows' conditions. -/
structure Ctx where
  st : ProtocolState
  ph : Phase
  addr : BitVec 7
  n : BitVec 9
  /-- `dirty > 0`. -/
  dirtyPos : Bool
  stopPending : Bool
  deriving DecidableEq, Repr

/-- Why an event word is ill formed (93_implementation_defined.md U8). -/
inductive DecodeError where
  /-- Operation code 0xA to 0xF (R80). -/
  | reservedOpcode
  /-- A DRAIN word with `a > 2`. -/
  | drainForm
  /-- A nonzero bit in an unused operand field. -/
  | unusedOperand
  /-- INIT's word with no arguments beside it (R160). -/
  | missingInitArgs
  deriving DecidableEq, Repr

/-- What the decoder answers. -/
inductive Decoded where
  | instr (i : Instr)
  | illFormed (e : DecodeError)
  deriving DecidableEq, Repr

/-- The notifications the serial interface raises while an operation is running (60_exceptions.md R183). -/
structure Raised where
  start : Bool
  byte : Option Byte
  deriving DecidableEq, Repr

/-- No notification. -/
def Raised.quiet : Raised := { start := false, byte := none }

/-- One entry of a run (30_encoding.md R82): an operation's event word, INIT's arguments beside it, the level of
the clock line at that moment (true is high), and the notifications raised while the operation runs. -/
structure Arrival where
  word : EventWord
  args : Option InitArgs
  scl : Bool
  during : Raised
  deriving DecidableEq, Repr

end Sys2Proof
end

