-- ==== Sys2Proof/Decode.lean ====
section
/-! DEFINITION. From event words to operations and back (30_encoding.md). The decoder chooses a row of
opcode_table.json by the key and the row's condition (R72, R79); `rowMask`, `rowMatch` and `rowCond` are the
table's own columns, written independently of the decoder. -/

namespace Sys2Proof

/-! ### Codes and fields -/

/-- The 3-bit code of a state (R70). -/
def ProtocolState.code : ProtocolState → BitVec 3
  | .addressMatch => 0
  | .registerAddress => 1
  | .masterRead => 2
  | .masterWrite => 3
  | .idle => 4
  | .reserved5 => 5
  | .reserved6 => 6
  | .reserved7 => 7

/-- The state of a 3-bit code (R70). -/
def ProtocolState.ofCode (c : BitVec 3) : ProtocolState :=
  match c.toNat with
  | 0 => .addressMatch
  | 1 => .registerAddress
  | 2 => .masterRead
  | 3 => .masterWrite
  | 4 => .idle
  | 5 => .reserved5
  | 6 => .reserved6
  | _ => .reserved7

/-- Codes 5, 6 and 7 are reserved (R70, R80). -/
def ProtocolState.isReserved : ProtocolState → Bool
  | .reserved5 | .reserved6 | .reserved7 => true
  | .addressMatch | .registerAddress | .masterRead | .masterWrite | .idle => false

/-- The bit of a phase (R71). -/
def Phase.bit : Phase → BitVec 1
  | .pre => 0
  | .post => 1

/-- The phase of a bit (R71). -/
def Phase.ofBit (b : Bool) : Phase := if b then .post else .pre

/-- `op[3:0]` of an event word (R74). -/
def wordOp (w : EventWord) : BitVec 4 := w.extractLsb' 16 4

/-- `a[7:0]` of an event word (R74). -/
def wordA (w : EventWord) : Byte := w.extractLsb' 8 8

/-- `b[7:0]` of an event word (R74). -/
def wordB (w : EventWord) : Byte := w.extractLsb' 0 8

/-- The event word of an operation code and its operands (R74). -/
def eventWord (op : BitVec 4) (a b : Byte) : EventWord := op ++ a ++ b

/-- `A = rx[7:1]`, the address field of the address byte (R75). -/
def addrField (rx : Byte) : BitVec 7 := rx.extractLsb' 1 7

/-- `rx[0]`: the direction bit of the address byte, 1 for a read (R71, R75). -/
def readBit (rx : Byte) : Bool := rx.getLsbD 0

/-- `rx[0]`: the acknowledge bit of the BYTE after it, 0 for ACK and 1 for NAK (R71, R78). -/
def nakBit (rx : Byte) : Bool := rx.getLsbD 0

/-- The match predicate of the address matcher (R113): the block's own address, or address 0. -/
def addrMatch (addr : BitVec 7) (rx : Byte) : Bool :=
  addrField rx == addr || addrField rx == 0

/-- `rx <= N-1`, the check of the register-address byte, unsigned (R76, R117, R118). -/
def inFile (n : BitVec 9) (rx : Byte) : Bool := decide (rx.toNat < n.toNat)

/-- A configuration in the ranges of R6 and R202: anything else is refused (R7, U1). -/
def configLegal (g : InitArgs) : Bool :=
  decide (g.addr < 128) && decide (1 ≤ g.n) && decide (g.n ≤ 256) &&
    (match g.mask with
     | .globalMask _ => true
     | .perReg ms => decide (g.n ≤ ms.length)) &&
    decide (g.n ≤ g.reg.length)

/-! ### The decoder -/

/-- The row of a BYTE (R72, second table): by state, phase and the condition on `rx`. -/
def decodeByte (c : Ctx) (rx : Byte) : Instr :=
  match c.st, c.ph with
  | .addressMatch, .pre =>
    if addrMatch c.addr rx then
      (if readBit rx then .byteAmRd rx else .byteAmWr rx)
    else .byteAmNak rx
  | .addressMatch, .post => .byteAmPost rx
  | .registerAddress, .pre => if inFile c.n rx then .byteRaLoad rx else .byteRaNak rx
  | .registerAddress, .post => .byteRaPost rx
  | .masterWrite, .pre => .byteMwData rx
  | .masterWrite, .post => .byteMwPost rx
  | .masterRead, .pre => .byteMrPre rx
  | .masterRead, .post => if nakBit rx then .byteMrNak rx else .byteMrAck rx
  | .idle, .pre => .byteIdPre rx
  | .idle, .post => .byteIdPost rx
  | .reserved5, _ => .byteIll5 rx
  | .reserved6, _ => .byteIll67 rx
  | .reserved7, _ => .byteIll67 rx

/-- The condition of DRAIN.HIT (R162, R163). -/
def drainHits (c : Ctx) : Bool :=
  c.st == .masterWrite && c.dirtyPos && c.stopPending

/-- The row of a DRAIN word: operand `a` is 0 for the whole call, 1 for the test, 2 for the critical section
(R74, R162, R170). -/
def decodeDrain (c : Ctx) (a : Byte) : Decoded :=
  match a.toNat with
  | 0 => .instr (if drainHits c then .drainHit else .drainMiss)
  | 1 => .instr .drainT
  | 2 => .instr .drainC
  | _ => .illFormed .drainForm

/-- An operation whose operand fields given here must be zero (R74, U8). -/
def zeroOperands (a b : Byte) (d : Decoded) : Decoded :=
  if a = 0 ∧ b = 0 then d else .illFormed .unusedOperand

/-- INIT with the arguments beside its word (R74, R160). -/
def decodeInit : Option InitArgs → Decoded
  | some g => .instr (.init g)
  | none => .illFormed .missingInitArgs

/-- The operation an event word stands for, in the given context (R74, R79). Total: every word decodes or is
refused by name (R80, U8). -/
def decode (c : Ctx) (w : EventWord) (args : Option InitArgs) : Decoded :=
  let a := wordA w
  let b := wordB w
  match (wordOp w).toNat with
  | 0 => zeroOperands a b (decodeInit args)
  | 1 => zeroOperands a b (.instr .start)
  | 2 => zeroOperands a b (.instr .scllow)
  | 3 => zeroOperands 0 b (.instr (decodeByte c a))
  | 4 => zeroOperands a b (.instr .stop)
  | 5 => zeroOperands 0 b (decodeDrain c a)
  | 6 => zeroOperands a b (.instr .ongoing)
  | 7 => zeroOperands 0 b (.instr (.hrd a))
  | 8 => .instr (.hwr a b)
  | 9 => zeroOperands a b (.instr .abort)
  | _ => .illFormed .reservedOpcode

/-! ### The encoder -/

/-- The operation code (R74). -/
def Instr.opcode : Instr → BitVec 4
  | .init _ => 0x0
  | .start => 0x1
  | .scllow => 0x2
  | .byteAmNak _ | .byteAmRd _ | .byteAmWr _ | .byteAmPost _ | .byteRaNak _ | .byteRaLoad _ | .byteRaPost _
  | .byteMrPre _ | .byteMrNak _ | .byteMrAck _ | .byteMwData _ | .byteMwPost _ | .byteIdPre _ | .byteIdPost _
  | .byteIll5 _ | .byteIll67 _ => 0x3
  | .stop => 0x4
  | .drainHit | .drainMiss | .drainT | .drainC => 0x5
  | .ongoing => 0x6
  | .hrd _ => 0x7
  | .hwr _ _ => 0x8
  | .abort => 0x9

/-- Operand `a` (R74). -/
def Instr.operandA : Instr → Byte
  | .byteAmNak rx | .byteAmRd rx | .byteAmWr rx | .byteAmPost rx | .byteRaNak rx | .byteRaLoad rx | .byteRaPost rx
  | .byteMrPre rx | .byteMrNak rx | .byteMrAck rx | .byteMwData rx | .byteMwPost rx | .byteIdPre rx | .byteIdPost rx
  | .byteIll5 rx | .byteIll67 rx => rx
  | .drainT => 1
  | .drainC => 2
  | .hrd i => i
  | .hwr i _ => i
  | .init _ | .start | .scllow | .abort | .stop | .drainHit | .drainMiss | .ongoing => 0

/-- Operand `b` (R74). -/
def Instr.operandB : Instr → Byte
  | .hwr _ v => v
  | .byteAmNak _ | .byteAmRd _ | .byteAmWr _ | .byteAmPost _ | .byteRaNak _ | .byteRaLoad _ | .byteRaPost _
  | .byteMrPre _ | .byteMrNak _ | .byteMrAck _ | .byteMwData _ | .byteMwPost _ | .byteIdPre _ | .byteIdPost _
  | .byteIll5 _ | .byteIll67 _ | .drainT | .drainC | .hrd _
  | .init _ | .start | .scllow | .abort | .stop | .drainHit | .drainMiss | .ongoing => 0

/-- The event word of an operation (R74). -/
def encode (i : Instr) : EventWord := eventWord i.opcode i.operandA i.operandB

/-- The arguments beside the word: INIT's alone (R74). -/
def Instr.args : Instr → Option InitArgs
  | .init g => some g
  | .start | .scllow | .abort | .byteAmNak _ | .byteAmRd _ | .byteAmWr _ | .byteAmPost _ | .byteRaNak _
  | .byteRaLoad _ | .byteRaPost _ | .byteMrPre _ | .byteMrNak _ | .byteMrAck _ | .byteMwData _ | .byteMwPost _
  | .byteIdPre _ | .byteIdPost _ | .byteIll5 _ | .byteIll67 _ | .stop | .drainHit | .drainMiss | .drainT | .drainC
  | .ongoing | .hrd _ | .hwr _ _ => none

/-! ### The rows of opcode_table.json -/

/-- The key `op[3:0], st[2:0], ph` (R79). -/
def rowKey (op : BitVec 4) (st : ProtocolState) (ph : Phase) : Key := op ++ st.code ++ ph.bit

/-- The `mask` of the operation's row. -/
def rowMask : Instr → Key
  | .init _ | .start | .scllow | .abort | .stop | .drainMiss | .drainT | .drainC | .ongoing | .hrd _ | .hwr _ _ => 0xF0
  | .byteAmNak _ | .byteAmRd _ | .byteAmWr _ | .byteAmPost _ | .byteRaNak _ | .byteRaLoad _ | .byteRaPost _
  | .byteMrPre _ | .byteMrNak _ | .byteMrAck _ | .byteMwData _ | .byteMwPost _ | .byteIdPre _ | .byteIdPost _ => 0xFF
  | .byteIll5 _ | .drainHit => 0xFE
  | .byteIll67 _ => 0xFC

/-- The `match` of the operation's row. -/
def rowMatch : Instr → Key
  | .init _ => 0x00
  | .start => 0x10
  | .scllow => 0x20
  | .abort => 0x90
  | .byteAmNak _ => 0x30
  | .byteAmRd _ => 0x30
  | .byteAmWr _ => 0x30
  | .byteAmPost _ => 0x31
  | .byteRaNak _ => 0x32
  | .byteRaLoad _ => 0x32
  | .byteRaPost _ => 0x33
  | .byteMrPre _ => 0x34
  | .byteMrNak _ => 0x35
  | .byteMrAck _ => 0x35
  | .byteMwData _ => 0x36
  | .byteMwPost _ => 0x37
  | .byteIdPre _ => 0x38
  | .byteIdPost _ => 0x39
  | .byteIll5 _ => 0x3A
  | .byteIll67 _ => 0x3C
  | .stop => 0x40
  | .drainHit => 0x56
  | .drainMiss => 0x50
  | .drainT => 0x50
  | .drainC => 0x50
  | .ongoing => 0x60
  | .hrd _ => 0x70
  | .hwr _ _ => 0x80

/-- The part of the row's `cond` that chooses between rows of one key (R79); what `cond` says of `sw`, `scl`,
ranges and parameters is no choice of row but whether the operation is enabled, and is checked by its meaning. -/
def rowCond (c : Ctx) : Instr → Bool
  | .byteAmNak rx => addrField rx != c.addr && addrField rx != 0
  | .byteAmRd rx => (addrField rx == c.addr || addrField rx == 0) && readBit rx
  | .byteAmWr rx => (addrField rx == c.addr || addrField rx == 0) && !readBit rx
  | .byteRaNak rx => !inFile c.n rx
  | .byteRaLoad rx => inFile c.n rx
  | .byteMrNak rx => nakBit rx
  | .byteMrAck rx => !nakBit rx
  | .drainHit => c.dirtyPos && c.stopPending
  | .drainMiss => c.st != .masterWrite || !c.dirtyPos || !c.stopPending
  | .init _ | .start | .scllow | .abort | .byteAmPost _ | .byteRaPost _ | .byteMrPre _ | .byteMwData _ | .byteMwPost _
  | .byteIdPre _ | .byteIdPost _ | .byteIll5 _ | .byteIll67 _ | .stop | .drainT | .drainC | .ongoing | .hrd _
  | .hwr _ _ => true

/-- The operation's row is the one the table selects in this context: its pattern matches the key and its condition
holds (R79). -/
def selected (c : Ctx) (i : Instr) : Bool :=
  (rowKey i.opcode c.st c.ph &&& rowMask i == rowMatch i) && rowCond c i

/-! ### Table words

An instruction numbered as opcode_table.json numbers its rows: bits 7..0 are the key, bits 15..8 operand `a`, bits
23..16 operand `b` (log entry 19). -/

/-- The key of a table word. -/
def tableKey (nbits w : Nat) : Key := BitVec.ofNat 8 (w % 2 ^ nbits)

/-- Operand `a` of a table word. -/
def tableA (nbits w : Nat) : Byte := BitVec.ofNat 8 (w % 2 ^ nbits / 2 ^ 8)

/-- Operand `b` of a table word. -/
def tableB (nbits w : Nat) : Byte := BitVec.ofNat 8 (w % 2 ^ nbits / 2 ^ 16)

/-- The operation code of a table word. -/
def tableOp (nbits w : Nat) : BitVec 4 := (tableKey nbits w).extractLsb' 4 4

/-- The state of a table word's key. -/
def tableSt (nbits w : Nat) : ProtocolState := .ofCode ((tableKey nbits w).extractLsb' 1 3)

/-- The phase of a table word's key. -/
def tablePh (nbits w : Nat) : Phase := .ofBit ((tableKey nbits w).getLsbD 0)

/-- The event word of a table word. -/
def tableEvent (nbits w : Nat) : EventWord := eventWord (tableOp nbits w) (tableA nbits w) (tableB nbits w)

/-- The arguments put beside INIT's table word: the smallest legal configuration (log entry 19). -/
def tableArgs : InitArgs := { addr := 0, n := 1, mask := .globalMask 0, reg := [0] }

/-- The context a table word is read in: the key's state and phase, the configuration of State.reset, and a count and
a stop that are pending, so that the more specific of the two DRAIN rows can be read. -/
def tableCtx (nbits w : Nat) : Ctx :=
  { st := tableSt nbits w, ph := tablePh nbits w, addr := 0, n := 1, dirtyPos := true, stopPending := true }

/-- The operation the decoder reads from a table word. -/
def decodeTableWord (nbits w : Nat) : Option Instr :=
  match decode (tableCtx nbits w) (tableEvent nbits w) (some tableArgs) with
  | .instr i => some i
  | .illFormed _ => none

end Sys2Proof
end

