-- ==== Sys2Proof/Machine/State.lean ====
section
/-! DEFINITION. The state of the block and of its environment (10_state.md), why a step can stop, and the machine at
reset. State is plain data. -/

namespace Sys2Proof.Machine

/-- A file of bytes by index: the register file `reg` and the mask file `MASK` (10_state.md R20, R28, R35). One
canonical form, `Memory.wf`. -/
abbrev Memory := List Host.Cell

/-- What an index that is not listed reads as (log entry 7). -/
def Memory.unlisted : Byte := 0

/-- The canonical form: indices strictly rising, and no entry equal to what an unlisted index reads as. -/
abbrev Memory.wf (m : Memory) : Prop :=
  m.Pairwise (fun c d => c.1 < d.1) ∧ ∀ c ∈ m, c.2 ≠ Memory.unlisted

/-- The value a host operation returns (30_encoding.md R82, `->`). -/
inductive HostResult where
  /-- No host operation has returned a value since INIT. -/
  | nothing
  /-- The count of a DRAIN (R162). -/
  | count (n : Nat)
  /-- DRAIN.T went on to the critical section (R170). -/
  | armed
  /-- The bit of ONGOING (R165). -/
  | ongoing (b : Bool)
  /-- The byte of HRD (R166). -/
  | byte (v : Byte)
  deriving DecidableEq, Repr

/-- The state: the block's tuple, the environment's part, the host's position, the open parameters, and the rest of
the run. INVENTORY.md lists every field with its rule and its reset value. -/
structure State where
  /-- The open parameters (00_scope.md R6); no operation changes them. -/
  params : Params
  /-- INIT has run (R160, R200). -/
  inited : Bool
  /-- `ADDR` (R31). -/
  addr : BitVec 7
  /-- `N` (R31). -/
  n : BitVec 9
  /-- `MASK_MODE` (R28). -/
  maskMode : MaskMode
  /-- `GMASK` (R28). -/
  gmask : Byte
  /-- `MASK[0..N-1]` (R28). -/
  mask : Memory
  /-- `reg[0..N-1]` (R20). -/
  reg : Memory
  /-- `st` (R23). -/
  st : ProtocolState
  /-- `ph` (R24). -/
  ph : Phase
  /-- `off` (R25). -/
  off : Byte
  /-- `dirty` (R27), a count below `2^DIRTY_W`. -/
  dirty : Nat
  /-- `sw` (R29). -/
  sw : Bool
  /-- `drv` (R33). -/
  drv : Drive
  /-- `stop_pending`, the serial interface's flag (R32). -/
  stopPending : Bool
  /-- `scl`, the level of the clock line, true is high (R34). -/
  scl : Bool
  /-- A start notification is raised and not yet delivered (R34, R183). -/
  startWaits : Bool
  /-- A byte-boundary notification is raised and not yet delivered, with its `rx` (R34, R183). -/
  byteWaits : Option Byte
  /-- The host has passed DRAIN's test and not yet entered its critical section (R170). -/
  armed : Bool
  /-- The model's own: the value the last host operation returned. -/
  result : HostResult
  /-- The model's own: the rest of the run (R37, R82). -/
  trace : List Arrival
  deriving DecidableEq, Repr

/-- The machine at reset. The block has one reset, the operation INIT (R200); `State.reset` is the machine that waits
for it. Every field R38 gives a value for has that value already; the configuration, which R38 takes from INIT's
arguments, and the fields the spec gives no value are log entries 1, 2, 3, 4, 5 and 16. -/
def State.reset : State :=
  { params := Params.standard
    inited := false
    addr := 0
    n := 1
    maskMode := .globalMask
    gmask := 0
    mask := []
    reg := []
    st := .idle
    ph := .pre
    off := 0
    dirty := 0
    sw := false
    drv := .release
    stopPending := false
    scl := true
    startWaits := false
    byteWaits := none
    armed := false
    result := .nothing
    trace := [] }

/-- Why the machine stops with a fault. -/
inductive Fault where
  /-- The start wait does not end: the clock line is high while `sw = 1` and `START_WAIT_ABORT` is false (R101, R103, U4
  "stuck"). Raised by SCLLOW and by a step with nothing arriving. Safe: the hardware would wait on (log entry 10). -/
  | startWait
  /-- A bus access at a register pointer outside `0..N-1`, where no register is (R25, R52, R55). Raised by BYTE.MW.DATA
  and BYTE.MR.ACK, only in states no run reaches. Safe (log entry 14). -/
  | pointerOutOfFile
  deriving DecidableEq, Repr

/-- Why an operation has no meaning where it stands ("refuse" of 00_scope.md section 4, and operations that are not
enabled). All are safe: the model gives the operation no effect. -/
inductive Refusal where
  /-- An operation this model gives no meaning yet. Raised by no arm. -/
  | notModelled (mnemonic : String)
  /-- An operation other than INIT before INIT (R200, U9). Raised by every operation but INIT. -/
  | notInitialised
  /-- A second INIT (R160, R200, U5). Raised by INIT. -/
  | secondInit
  /-- INIT with a configuration, or with `DIRTY_W`, out of the ranges of R6 (R7, U1). Raised by INIT. -/
  | illegalConfig
  /-- A BYTE or a host operation while `sw = 1` (R103, R110). Raised by all of them. -/
  | heldByStartWait
  /-- SCLLOW or ABORT with `sw = 0` (R101, R102). Raised by these two. -/
  | noStartWait
  /-- SCLLOW with the clock line high, where `START_WAIT_ABORT` lets the wait be abandoned (R101, U10). Raised by SCLLOW
  (log entry 10). -/
  | clockHigh
  /-- ABORT with `START_WAIT_ABORT` false (R102). Raised by ABORT. -/
  | abortDisabled
  /-- A row of opcode_table.json that the key and the condition do not select (R79). Raised by the BYTE and DRAIN rows;
  never by a step, which runs the selected row (log entry 9). -/
  | rowNotSelected
  /-- An operation other than BYTE on a reserved state code (U7). Raised by every such operation (log entry 8). -/
  | reservedState
  /-- HRD or HWR with an index `i >= N` (R166, R167, U2). -/
  | indexOutOfFile
  /-- HWR while a transaction is going on (R167). -/
  | transactionOngoing
  /-- DRAIN.T or DRAIN.C under `DRAIN_ATOMICITY = WHOLE` (R79, R170). -/
  | drainNotSplit
  /-- DRAIN.C when no DRAIN.T has armed the host (R79, R170). -/
  | notArmed
  /-- A host operation other than DRAIN.C while the host is inside a DRAIN (R170). -/
  | hostInsideDrain
  /-- An ill-formed event word (R80, U8). Raised by a step. -/
  | illFormed (e : DecodeError)
  deriving DecidableEq, Repr

/-- What a step finds to run. -/
inductive Fetched where
  /-- Run this operation in this state; these notifications are raised while it runs. -/
  | run (i : Instr) (s : State) (r : Raised)
  /-- Nothing arrives. -/
  | quiet
  /-- Nothing arrives, the start handler waits for a clock line that is high, and the wait may not be abandoned (U4). -/
  | stuck
  /-- An ill-formed event word. -/
  | bad (e : DecodeError)
  deriving DecidableEq, Repr

end Sys2Proof.Machine
end

