-- ==== Sys2Proof/Machine/Flags.lean ====
section
/-! DEFINITION. The flags (10_state.md R30) and the outputs derived from the state (R33). The block has no arithmetic
condition codes. -/

namespace Sys2Proof.Machine

/-- `not ph` (R111). -/
def flipPhase : Phase → Phase
  | .pre => .post
  | .post => .pre

/-- `(dirty + 1) mod 2^DIRTY_W` (R27, R130). -/
def nextDirty (p : Params) (d : Nat) : Nat := (d + 1) % 2 ^ p.dirtyW

/-- The predicate `dirty > 0` (R30). -/
def dirtyPos (s : State) : Bool := decide (0 < s.dirty)

/-- The result of ONGOING (R165). -/
def ongoing (st : ProtocolState) : Bool := st != .idle && st != .addressMatch

/-- The line direction `dir`: true is OUT (R33, R71). -/
def dirOut : Drive → Bool
  | .release => false
  | .ackLow => true
  | .byte _ => true

/-- `next_len`: how many clock pulses to the next byte boundary (R33). -/
def nextLen : Phase → Nat
  | .pre => 8
  | .post => 1

/-- The inputs of the choice of a row, taken from the state (R79). -/
def ctxOf (s : State) : Ctx :=
  { st := s.st, ph := s.ph, addr := s.addr, n := s.n, dirtyPos := dirtyPos s, stopPending := s.stopPending }

end Sys2Proof.Machine
end

