-- ==== Sys2Proof/Machine/Operands.lean ====
section
/-! DEFINITION. How operations reach the two files of bytes and the register pointer: reads and writes by index, the
ranges of an index, the write mask, the advance of the pointer. -/

namespace Sys2Proof.Machine

/-- Read one byte of a file. -/
def Memory.read (m : Memory) (i : Nat) : Byte :=
  match m with
  | [] => Memory.unlisted
  | (j, v) :: rest => if i = j then v else Memory.read rest i

/-- An entry in front of a file, unless it is what an unlisted index reads as. -/
def Memory.put (i : Nat) (v : Byte) (m : Memory) : Memory :=
  if v = Memory.unlisted then m else (i, v) :: m

/-- Write one byte of a file, keeping the canonical form. -/
def Memory.write (m : Memory) (i : Nat) (v : Byte) : Memory :=
  match m with
  | [] => Memory.put i v []
  | (j, w) :: rest =>
    if i < j then Memory.put i v ((j, w) :: rest)
    else if i = j then Memory.put i v rest
    else (j, w) :: Memory.write rest i v

/-- The file that holds a list of bytes from index `i` on. -/
def Memory.ofBytes (i : Nat) : List Byte → Memory
  | [] => []
  | v :: vs => Memory.put i v (Memory.ofBytes (i + 1) vs)

/-- `0 <= i < N`: the index names a register (R52, R55). -/
def indexOk (s : State) (i : Byte) : Bool := inFile s.n i

/-- `wmask(i)` (R28). -/
def wmask (s : State) (i : Byte) : Byte :=
  match s.maskMode with
  | .globalMask => s.gmask
  | .perReg => Memory.read s.mask i.toNat

/-- The mask law (R132): the stored value for old value `o`, data byte `v` and mask `m`. -/
def maskedByte (o v m : Byte) : Byte := (o &&& ~~~m) ||| (v &&& m)

/-- The pointer law (R133): `(off + 1) mod N`. -/
def nextPtr (n : BitVec 9) (off : Byte) : Byte := BitVec.ofNat 8 ((off.toNat + 1) % n.toNat)

/-- `reg[i]`. -/
def regAt (s : State) (i : Byte) : Byte := Memory.read s.reg i.toNat

/-- The masks INIT latches in `MASK[0..N-1]`; none under a global mask (R28, log entry 15). -/
def maskBytes (g : InitArgs) : List Byte :=
  match g.mask with
  | .globalMask _ => []
  | .perReg ms => ms.take g.n

/-- The byte INIT latches in `GMASK`; 0 where the argument is a list of masks (R28, log entry 15). -/
def globalByte (g : InitArgs) : Byte :=
  match g.mask with
  | .globalMask m => m
  | .perReg _ => 0

/-- `MASK_MODE` as INIT's argument selects it (R82). -/
def modeOf (g : InitArgs) : MaskMode :=
  match g.mask with
  | .globalMask _ => .globalMask
  | .perReg _ => .perReg

end Sys2Proof.Machine
end

