-- ==== Sys2Proof/Machine/Ops.lean ====
section
/-! DEFINITION. The operations on the state that the meanings are made of: the assignments of the spec's pseudocode
(00_scope.md section 4), the rejection (the block's one exception, R180), and the conditions under which an operation
is enabled. -/

namespace Sys2Proof.Machine

/-! ### Assignments -/

/-- `drv <- d`. -/
def drive (d : Drive) (s : State) : State := { s with drv := d }

/-- `st <- S`. -/
def goTo (st : ProtocolState) (s : State) : State := { s with st := st }

/-- `off <- v`. -/
def setPtr (v : Byte) (s : State) : State := { s with off := v }

/-- `off <- (off + 1) mod N` (R133). -/
def advancePtr (s : State) : State := setPtr (nextPtr s.n s.off) s

/-- `reg[i] <- v`. -/
def storeReg (i v : Byte) (s : State) : State := { s with reg := Memory.write s.reg i.toNat v }

/-- `MemWriteMasked(off, v)` (R130, step 1): the masked store at the register pointer. -/
def storeMasked (v : Byte) (s : State) : State :=
  storeReg s.off (maskedByte (regAt s s.off) v (wmask s s.off)) s

/-- `dirty <- (dirty + 1) mod 2^DIRTY_W` (R130, step 2). -/
def countWrite (s : State) : State := { s with dirty := nextDirty s.params s.dirty }

/-- The common tail of every BYTE: `ph <- not ph` (R111). -/
def endByte (s : State) : State := { s with ph := flipPhase s.ph }

/-- `stop_pending <- 0`: what the serial interface does at every start condition (R32). -/
def clearStop (s : State) : State := { s with stopPending := false }

/-- `return v` of a host operation. -/
def giveResult (r : HostResult) (s : State) : State := { s with result := r }

/-! ### Rejections: the block's exceptions -/

/-- The kinds of rejection (R180). They are labels: the block keeps no record of them. -/
inductive Reject where
  | addressMismatch
  | registerOutOfRange
  | defensive
  deriving DecidableEq, Repr

/-- `raise Reject(kind)`: `drv <- Release ; st <- Idle` and nothing else (R180). Nothing is saved and no handler
runs, so there is nothing to return from (R185, R186). -/
def raiseReject (_ : Reject) (s : State) : State := goTo .idle (drive .release s)

/-! ### Whole effects shared by several operations -/

/-- What a start condition does (R100); the last assignment is the environment's, in the same step (R32). -/
def startEffect (s : State) : State :=
  { s with st := .addressMatch, ph := .pre, sw := true, drv := .release, stopPending := false }

/-- A DRAIN that hits: `st <- Idle ; count = dirty ; dirty <- 0 ; return count` (R163, R170). -/
def drainEffect (s : State) : State :=
  { s with st := .idle, dirty := 0, result := .count s.dirty }

/-- Load the register at the pointer into the drive: `drv <- Byte(reg[off])` (R142). -/
def loadByte (s : State) : State := drive (.byte (regAt s s.off)) s

/-- The state after INIT (R160, R38). Kept: the parameters, the level `scl`, the rest of the run. -/
def afterInit (g : InitArgs) (s : State) : State :=
  { s with
    inited := true
    addr := BitVec.ofNat 7 g.addr
    n := BitVec.ofNat 9 g.n
    maskMode := modeOf g
    gmask := globalByte g
    mask := Memory.ofBytes 0 (maskBytes g)
    reg := Memory.ofBytes 0 (g.reg.take g.n)
    st := .idle
    ph := .pre
    off := 0
    dirty := 0
    sw := false
    drv := .release
    stopPending := false
    startWaits := false
    byteWaits := none
    armed := false
    result := .nothing }

/-- The notifications raised while an operation ran wait from now on (R183); a start notification clears `stop_pending`
in the step that raises it (R32). A byte boundary cannot arise while the start handler waits, because the serial
interface is not counting (log entry 24); at most one of each kind waits. -/
def raiseNotifications (r : Raised) (s : State) : State :=
  { s with
    stopPending := s.stopPending && !r.start
    startWaits := s.startWaits || r.start
    byteWaits := if s.sw then s.byteWaits else s.byteWaits.or r.byte }

/-! ### Enabling conditions -/

/-- The open parameters are in the ranges of R6: `DIRTY_W` is at least 1. -/
def paramsLegal (p : Params) : Bool := decide (1 ≤ p.dirtyW)

/-- What every operation but INIT and BYTE needs: INIT has run (R200) and the state code is none of the reserved ones
(U7). -/
def eventGate (s : State) : Option Refusal :=
  if !s.inited then some .notInitialised
  else if s.st.isReserved then some .reservedState
  else none

/-- What a BYTE row needs: INIT has run, `sw = 0` (R110), and the table selects the row (R79). -/
def byteGate (i : Instr) (s : State) : Option Refusal :=
  if !s.inited then some .notInitialised
  else if s.sw then some .heldByStartWait
  else if !selected (ctxOf s) i then some .rowNotSelected
  else none

/-- What every host operation after INIT needs: `eventGate`, and `sw = 0` (R103). -/
def threadGate (s : State) : Option Refusal :=
  match eventGate s with
  | some r => some r
  | none => if s.sw then some .heldByStartWait else none

/-- What a host operation that begins a call needs: the host is not inside a DRAIN (R170). -/
def hostGate (s : State) : Option Refusal :=
  match threadGate s with
  | some r => some r
  | none => if s.armed then some .hostInsideDrain else none

end Sys2Proof.Machine
end

