-- ==== Sys2Proof/Machine/ByteAddress.lean ====
section
/-! DEFINITION. BYTE in AddressMatch and RegisterAddress (41_byte_address.md, and R152 of 44_idle_defensive.md). -/

namespace Sys2Proof.Machine

/-- BYTE.AM.NAK (R114): the address is someone else's. -/
def execByteAmNak (rx : Byte) (s : State) : Host.Outcome State Fault Refusal :=
  match byteGate (.byteAmNak rx) s with
  | some r => .refused r
  | none => .next (endByte (raiseReject .addressMismatch s))

/-- BYTE.AM.RD (R115): addressed for reading; the pointer stays. -/
def execByteAmRd (rx : Byte) (s : State) : Host.Outcome State Fault Refusal :=
  match byteGate (.byteAmRd rx) s with
  | some r => .refused r
  | none => .next (endByte (goTo .masterRead (drive .ackLow s)))

/-- BYTE.AM.WR (R116): addressed for writing; the pointer is reset. -/
def execByteAmWr (rx : Byte) (s : State) : Host.Outcome State Fault Refusal :=
  match byteGate (.byteAmWr rx) s with
  | some r => .refused r
  | none => .next (endByte (goTo .registerAddress (setPtr 0 (drive .ackLow s))))

/-- BYTE.AM.POST (R152): the defensive row. -/
def execByteAmPost (rx : Byte) (s : State) : Host.Outcome State Fault Refusal :=
  match byteGate (.byteAmPost rx) s with
  | some r => .refused r
  | none => .next (endByte (raiseReject .defensive s))

/-- BYTE.RA.NAK (R117): the register address is out of range. -/
def execByteRaNak (rx : Byte) (s : State) : Host.Outcome State Fault Refusal :=
  match byteGate (.byteRaNak rx) s with
  | some r => .refused r
  | none => .next (endByte (raiseReject .registerOutOfRange s))

/-- BYTE.RA.LOAD (R118): load the register pointer as it stands. -/
def execByteRaLoad (rx : Byte) (s : State) : Host.Outcome State Fault Refusal :=
  match byteGate (.byteRaLoad rx) s with
  | some r => .refused r
  | none => .next (endByte (goTo .masterWrite (setPtr rx (drive .ackLow s))))

/-- BYTE.RA.POST (R119): the acknowledge of the address byte is over. -/
def execByteRaPost (rx : Byte) (s : State) : Host.Outcome State Fault Refusal :=
  match byteGate (.byteRaPost rx) s with
  | some r => .refused r
  | none => .next (endByte (drive .release s))

end Sys2Proof.Machine
end

