-- ==== Sys2Proof/Machine/ByteIdle.lean ====
section
/-! DEFINITION. BYTE in Idle and on a reserved state code (44_idle_defensive.md). -/

namespace Sys2Proof.Machine

/-- BYTE.ID.PRE (R150): a byte that is not for the block. -/
def execByteIdPre (rx : Byte) (s : State) : Host.Outcome State Fault Refusal :=
  match byteGate (.byteIdPre rx) s with
  | some r => .refused r
  | none => .next (endByte (goTo .idle (drive .release s)))

/-- BYTE.ID.POST (R151): the acknowledge bit of such a byte. -/
def execByteIdPost (rx : Byte) (s : State) : Host.Outcome State Fault Refusal :=
  match byteGate (.byteIdPost rx) s with
  | some r => .refused r
  | none => .next (endByte (goTo .idle (drive .release s)))

/-- BYTE.ILL, first row (R153): reserved state code 5. -/
def execByteIll5 (rx : Byte) (s : State) : Host.Outcome State Fault Refusal :=
  match byteGate (.byteIll5 rx) s with
  | some r => .refused r
  | none => .next (endByte (raiseReject .defensive s))

/-- BYTE.ILL, second row (R153): reserved state codes 6 and 7. -/
def execByteIll67 (rx : Byte) (s : State) : Host.Outcome State Fault Refusal :=
  match byteGate (.byteIll67 rx) s with
  | some r => .refused r
  | none => .next (endByte (raiseReject .defensive s))

end Sys2Proof.Machine
end

