-- ==== Sys2Proof/Machine/ByteRead.lean ====
section
/-! DEFINITION. BYTE in MasterRead (43_master_read.md). -/

namespace Sys2Proof.Machine

/-- BYTE.MR.PRE (R140): release the line for the master's acknowledge. -/
def execByteMrPre (rx : Byte) (s : State) : Host.Outcome State Fault Refusal :=
  match byteGate (.byteMrPre rx) s with
  | some r => .refused r
  | none => .next (endByte (drive .release s))

/-- BYTE.MR.NAK (R141): the master ends the read; the pointer is reset. -/
def execByteMrNak (rx : Byte) (s : State) : Host.Outcome State Fault Refusal :=
  match byteGate (.byteMrNak rx) s with
  | some r => .refused r
  | none => .next (endByte (drive .release (goTo .idle (setPtr 0 s))))

/-- Advance the pointer and load a register byte, in the order of `READ_ORDER` (R142). -/
def advanceAndLoad (s : State) : State :=
  match s.params.readOrder with
  | .advanceThenLoad => loadByte (advancePtr s)
  | .loadThenAdvance => advancePtr (loadByte s)

/-- The pointer R142 loads at: the new one or the old one. -/
def loadPtr (s : State) : Byte :=
  match s.params.readOrder with
  | .advanceThenLoad => nextPtr s.n s.off
  | .loadThenAdvance => s.off

/-- BYTE.MR.ACK (R142): an acknowledge was seen; send the next register byte. A pointer outside the register file,
which no run reaches (R25), faults (log entry 14). -/
def execByteMrAck (rx : Byte) (s : State) : Host.Outcome State Fault Refusal :=
  match byteGate (.byteMrAck rx) s with
  | some r => .refused r
  | none =>
    if indexOk s (loadPtr s) then .next (endByte (advanceAndLoad s))
    else .fault .pointerOutOfFile

end Sys2Proof.Machine
end

