-- ==== Sys2Proof/Machine/ByteWrite.lean ====
section
/-! DEFINITION. BYTE in MasterWrite (42_master_write.md). -/

namespace Sys2Proof.Machine

/-- BYTE.MW.DATA (R130): the four steps in the rule's order; the store uses the pointer from before its advance. A
pointer outside the register file, which no run reaches (R25), faults (log entry 14). -/
def execByteMwData (rx : Byte) (s : State) : Host.Outcome State Fault Refusal :=
  match byteGate (.byteMwData rx) s with
  | some r => .refused r
  | none =>
    if indexOk s s.off then
      .next (endByte (drive .ackLow (advancePtr (countWrite (storeMasked rx s)))))
    else .fault .pointerOutOfFile

/-- BYTE.MW.POST (R131): the acknowledge of a byte received in a write is over. -/
def execByteMwPost (rx : Byte) (s : State) : Host.Outcome State Fault Refusal :=
  match byteGate (.byteMwPost rx) s with
  | some r => .refused r
  | none => .next (endByte (drive .release s))

end Sys2Proof.Machine
end

