-- ==== Sys2Proof/Machine/HostOps.lean ====
section
/-! DEFINITION. The host operations and the stop condition (45_host_ops.md). -/

namespace Sys2Proof.Machine

/-- INIT (R160): once, with a configuration and open parameters in the ranges of R6 (R7, U1). -/
def execInit (g : InitArgs) (s : State) : Host.Outcome State Fault Refusal :=
  if s.inited then .refused .secondInit
  else if !(configLegal g && paramsLegal s.params) then .refused .illegalConfig
  else .next (afterInit g s)

/-- STOP (R161): the serial interface sets its flag; no state of the block changes. -/
def execStop (s : State) : Host.Outcome State Fault Refusal :=
  match eventGate s with
  | some r => .refused r
  | none => .next { s with stopPending := true }

/-- DRAIN.HIT (R163). -/
def execDrainHit (s : State) : Host.Outcome State Fault Refusal :=
  match hostGate s with
  | some r => .refused r
  | none => if selected (ctxOf s) .drainHit then .next (drainEffect s) else .refused .rowNotSelected

/-- DRAIN.MISS (R164): 0, and nothing changes. -/
def execDrainMiss (s : State) : Host.Outcome State Fault Refusal :=
  match hostGate s with
  | some r => .refused r
  | none =>
    if selected (ctxOf s) .drainMiss then .next (giveResult (.count 0) s) else .refused .rowNotSelected

/-- DRAIN.T (R170): the test outside the critical section. -/
def execDrainT (s : State) : Host.Outcome State Fault Refusal :=
  match hostGate s with
  | some r => .refused r
  | none =>
    if s.params.drainAtomicity = .whole then .refused .drainNotSplit
    else if s.st = .masterWrite ∧ 0 < s.dirty then .next { s with armed := true, result := .armed }
    else .next (giveResult (.count 0) s)

/-- DRAIN.C (R170): the critical section. `st` is not tested again. -/
def execDrainC (s : State) : Host.Outcome State Fault Refusal :=
  match threadGate s with
  | some r => .refused r
  | none =>
    if s.params.drainAtomicity = .whole then .refused .drainNotSplit
    else if !s.armed then .refused .notArmed
    else if s.stopPending then .next (drainEffect { s with armed := false })
    else .next (giveResult (.count 0) { s with armed := false })

/-- ONGOING (R165). -/
def execOngoing (s : State) : Host.Outcome State Fault Refusal :=
  match hostGate s with
  | some r => .refused r
  | none => .next (giveResult (.ongoing (ongoing s.st)) s)

/-- HRD (R166): the host reads a register, in every state. -/
def execHrd (i : Byte) (s : State) : Host.Outcome State Fault Refusal :=
  match hostGate s with
  | some r => .refused r
  | none =>
    if indexOk s i then .next (giveResult (.byte (regAt s i)) s) else .refused .indexOutOfFile

/-- HWR (R167): the host writes a whole register, unmasked and uncounted, when no transaction is going on. -/
def execHwr (i v : Byte) (s : State) : Host.Outcome State Fault Refusal :=
  match hostGate s with
  | some r => .refused r
  | none =>
    if !indexOk s i then .refused .indexOutOfFile
    else if ongoing s.st then .refused .transactionOngoing
    else .next (storeReg i v s)

end Sys2Proof.Machine
end

