-- ==== Sys2Proof/Machine/StartFamily.lean ====
section
/-! DEFINITION. START, SCLLOW and ABORT (40_start.md). -/

namespace Sys2Proof.Machine

/-- START (R100). While the start handler already waits the notification is absorbed: it changes nothing of the block
(R104), and the serial interface clears its flag as at every start condition (R32, log entry 12). -/
def execStart (s : State) : Host.Outcome State Fault Refusal :=
  match eventGate s with
  | some r => .refused r
  | none => if s.sw then .next (clearStop s) else .next (startEffect s)

/-- SCLLOW (R101): the clock line is low and the start handler ends. With the line high SCLLOW is not enabled: where the
wait may not be abandoned that is the stuck state of U4, a fault; where `START_WAIT_ABORT` allows ABORT nothing is stuck,
and SCLLOW is refused. Both are the model's choice (log entry 10). -/
def execScllow (s : State) : Host.Outcome State Fault Refusal :=
  match eventGate s with
  | some r => .refused r
  | none =>
    if !s.sw then .refused .noStartWait
    else if s.scl then (if s.params.startWaitAbort then .refused .clockHigh else .fault .startWait)
    else .next { s with sw := false }

/-- ABORT (R102): give up the wait, where `START_WAIT_ABORT` allows it. -/
def execAbort (s : State) : Host.Outcome State Fault Refusal :=
  match eventGate s with
  | some r => .refused r
  | none =>
    if !s.sw then .refused .noStartWait
    else if !s.params.startWaitAbort then .refused .abortDisabled
    else .next { s with st := .idle, sw := false, drv := .release }

end Sys2Proof.Machine
end

