-- ==== Sys2Proof/Machine/Dispatch.lean ====
section
/-! DEFINITION. One arm per row of opcode_table.json. -/

namespace Sys2Proof.Machine

open Sys2Proof

def exec (i : Instr) (s : State) : Host.Outcome State Fault Refusal :=
  match i with
  | .init args => Sys2Proof.Machine.execInit args s
  | .start => Sys2Proof.Machine.execStart s
  | .scllow => Sys2Proof.Machine.execScllow s
  | .abort => Sys2Proof.Machine.execAbort s
  | .byteAmNak rx => Sys2Proof.Machine.execByteAmNak rx s
  | .byteAmRd rx => Sys2Proof.Machine.execByteAmRd rx s
  | .byteAmWr rx => Sys2Proof.Machine.execByteAmWr rx s
  | .byteAmPost rx => Sys2Proof.Machine.execByteAmPost rx s
  | .byteRaNak rx => Sys2Proof.Machine.execByteRaNak rx s
  | .byteRaLoad rx => Sys2Proof.Machine.execByteRaLoad rx s
  | .byteRaPost rx => Sys2Proof.Machine.execByteRaPost rx s
  | .byteMrPre rx => Sys2Proof.Machine.execByteMrPre rx s
  | .byteMrNak rx => Sys2Proof.Machine.execByteMrNak rx s
  | .byteMrAck rx => Sys2Proof.Machine.execByteMrAck rx s
  | .byteMwData rx => Sys2Proof.Machine.execByteMwData rx s
  | .byteMwPost rx => Sys2Proof.Machine.execByteMwPost rx s
  | .byteIdPre rx => Sys2Proof.Machine.execByteIdPre rx s
  | .byteIdPost rx => Sys2Proof.Machine.execByteIdPost rx s
  | .byteIll5 rx => Sys2Proof.Machine.execByteIll5 rx s
  | .byteIll67 rx => Sys2Proof.Machine.execByteIll67 rx s
  | .stop => Sys2Proof.Machine.execStop s
  | .drainHit => Sys2Proof.Machine.execDrainHit s
  | .drainMiss => Sys2Proof.Machine.execDrainMiss s
  | .drainT => Sys2Proof.Machine.execDrainT s
  | .drainC => Sys2Proof.Machine.execDrainC s
  | .ongoing => Sys2Proof.Machine.execOngoing s
  | .hrd ix => Sys2Proof.Machine.execHrd ix s
  | .hwr ix v => Sys2Proof.Machine.execHwr ix v s

end Sys2Proof.Machine
end

