-- ==== Sys2Proof/Machine/Fetch.lean ====
section
/-! DEFINITION. What a step runs: a waiting notification, START first (60_exceptions.md R183, R184), else the next
entry of the run (30_encoding.md R82); what stays waiting after it; and the probe that places an operation where the
next step finds it. -/

namespace Sys2Proof.Machine

/-- The next entry of the run: its clock level is sampled, its word decoded in the state as it stands (R79). With no
entry left nothing arrives. With the start handler waiting for a clock line that is high, that is the stuck state of U4
where `START_WAIT_ABORT` is false; where it is true ABORT is enabled (U10) and the block waits on. What such a step is, is
the model's choice (log entries 4 and 10). -/
def fetchArrival (s : State) : Fetched :=
  match s.trace with
  | [] => if s.sw && s.scl && !s.params.startWaitAbort then .stuck else .quiet
  | e :: rest =>
    let s' := { s with trace := rest, scl := e.scl }
    match decode (ctxOf s') e.word e.args with
    | .instr i => .run i s' e.during
    | .illFormed d => .bad d

/-- What the step runs. A waiting start notification is delivered first and a byte boundary that waits beside it is
dropped (R184); a waiting byte boundary is delivered next, unless the start handler waits (R183). -/
def fetch (s : State) : Fetched :=
  if s.startWaits then .run .start { s with startWaits := false, byteWaits := none } Raised.quiet
  else
    match s.byteWaits with
    | none => fetchArrival s
    | some rx =>
      if s.sw then fetchArrival s
      else .run (decodeByte (ctxOf s) rx) { s with byteWaits := none } Raised.quiet

/-- After the operation: what was raised while it ran waits. During INIT nothing is raised (R160, R202). `before` is
the state the operation ran in. -/
def finish (before : State) (r : Raised) (o : Host.Outcome State Fault Refusal) :
    Host.Outcome State Fault Refusal :=
  match o with
  | .next t => .next (if before.inited then raiseNotifications r t else t)
  | .fault f => .fault f
  | .refused e => .refused e

/-! ### The probe -/

/-- The parameters under which the operation of a table word is enabled: ABORT needs `START_WAIT_ABORT`, the split DRAIN
needs `INNER`. -/
def probeParams (op : BitVec 4) (a : Byte) (p : Params) : Params :=
  if op = 9 then { p with startWaitAbort := true }
  else if op = 5 ∧ a ≠ 0 then { p with drainAtomicity := .inner }
  else p

/-- The word is a whole DRAIN whose key has `st = MasterWrite`: the row DRAIN.HIT. -/
def probeHit (op : BitVec 4) (st : ProtocolState) (a : Byte) : Bool :=
  op == 5 && a == 0 && st == .masterWrite

/-- `s` with the table word (Decode.lean, table words) placed so that the very next step runs it: the key's state and
phase, INIT run or (for INIT) not yet run, the start wait on for SCLLOW and ABORT alone, the host armed for DRAIN.C
alone, a pending count and stop for DRAIN.HIT, nothing waiting, and the word as the next entry of the run, with the
clock line low (log entry 19). -/
def placeTableWord (s : State) (nbits w : Nat) : State :=
  let op := tableOp nbits w
  let a := tableA nbits w
  let st := tableSt nbits w
  { s with
    params := probeParams op a s.params
    inited := !(op == 0)
    st := st
    ph := tablePh nbits w
    sw := op == 2 || op == 9
    armed := op == 5 && a == 2
    dirty := if probeHit op st a then 1 else s.dirty
    stopPending := probeHit op st a || s.stopPending
    startWaits := false
    byteWaits := none
    trace :=
      { word := tableEvent nbits w, args := some tableArgs, scl := false, during := Raised.quiet } :: s.trace }

end Sys2Proof.Machine
end

