-- ==== Sys2Proof/Machine/Step.lean ====
section
/-! DEFINITION. One step of the machine. -/

namespace Sys2Proof.Machine

/-- One step: run what `fetch` finds (20_memory.md R57: one operation at a time, each to its end). With nothing
arriving the block stays as it is (log entry 4). -/
def step (s : State) : Host.Outcome State Fault Refusal :=
  match fetch s with
  | .run i s' r => finish s' r (exec i s')
  | .quiet => .next s
  | .stuck => .fault .startWait
  | .bad e => .refused (.illFormed e)

/-- `s` with a table word placed where the next step finds it. -/
def State.withFetchWord (s : State) (nbits w : Nat) : State := placeTableWord s nbits w

end Sys2Proof.Machine
end

