-- ==== Sys2Proof/WellFormed.lean ====
section
/-! DEFINITION. The operations a run can hold: what an operand must be, whatever the state, for the row to apply
(the parts of opcode_table.json's conditions that speak of the operand alone) and for INIT a configuration in range. -/

namespace Sys2Proof

/-- Well-formed operations. INIT: the ranges of R6 and R202 (U1). The address byte's rows: the direction bit of R75 and
a nonzero address for a mismatch (R114 to R116). The read's second half: the acknowledge bit of R78 (R141, R142). -/
def Instr.wellFormed : Instr → Bool
  | .init g => configLegal g
  | .byteAmNak rx => addrField rx != 0
  | .byteAmRd rx => readBit rx
  | .byteAmWr rx => !readBit rx
  | .byteMrNak rx => nakBit rx
  | .byteMrAck rx => !nakBit rx
  | .start | .scllow | .abort | .byteAmPost _ | .byteRaNak _ | .byteRaLoad _ | .byteRaPost _ | .byteMrPre _
  | .byteMwData _ | .byteMwPost _ | .byteIdPre _ | .byteIdPost _ | .byteIll5 _ | .byteIll67 _ | .stop | .drainHit
  | .drainMiss | .drainT | .drainC | .ongoing | .hrd _ | .hwr _ _ => true

end Sys2Proof
end

