-- ==== Sys2Proof/Safety.lean ====
section
/-! DEFINITION. What claims speak of: the invariants of 10_state.md R36, when the spec enables an operation, and runs of
operations. -/

namespace Sys2Proof.Machine

/-- The invariants of the machine (R36), with the ranges of R6, R25, R27, R31 and R183, and the canonical form of the two
files. They hold at reset, before INIT, as well. -/
structure MachineInv (s : State) : Prop where
  /-- `0 <= off < N` (R25, R36). -/
  ptr : s.off.toNat < s.n.toNat
  /-- `N` is at most 256 (R31). -/
  size : s.n.toNat ≤ 256
  /-- `st` is one of the five values (R36). -/
  fiveStates : s.st.isReserved = false
  /-- `DIRTY_W` is at least 1 (R6). -/
  widthLegal : paramsLegal s.params = true
  /-- `dirty` fits its `DIRTY_W` bits (R27). -/
  dirtyFits : s.dirty < 2 ^ s.params.dirtyW
  /-- `drv = Byte(v)` only while `st = MasterRead`, under `DRAIN_ATOMICITY = WHOLE` (R36). -/
  byteOnlyInRead : s.params.drainAtomicity = .whole → ∀ v, s.drv = .byte v → s.st = .masterRead
  /-- `drv = AckLow` only while `ph = post` (R36). -/
  ackOnlyInPost : s.drv = .ackLow → s.ph = .post
  /-- `sw = 1` implies `st = AddressMatch`, `ph = pre` and `drv = Release` (R36). -/
  startWait : s.sw = true → s.st = .addressMatch ∧ s.ph = .pre ∧ s.drv = .release
  /-- No byte boundary waits while the start handler waits (R183). -/
  noByteInStartWait : s.sw = true → s.byteWaits = none
  /-- The host is inside a split DRAIN only under `INNER` (R170). -/
  armedInner : s.armed = true → s.params.drainAtomicity = .inner
  /-- The register file is in canonical form, and within `0..N-1` (R55). -/
  regForm : Memory.wf s.reg
  regRange : ∀ c ∈ s.reg, c.1 < s.n.toNat
  /-- The same of the mask file (R35). -/
  maskForm : Memory.wf s.mask
  maskRange : ∀ c ∈ s.mask, c.1 < s.n.toNat

/-- INIT has run and the state code is none of the reserved ones. -/
def live (s : State) : Prop := s.inited = true ∧ s.st.isReserved = false

/-- The host may begin a call: live, `sw = 0` (R103), not inside a DRAIN (R170). -/
def hostReady (s : State) : Prop := live s ∧ s.sw = false ∧ s.armed = false

/-- A BYTE row applies: INIT has run, `sw = 0` (R110), and the table selects the row (R79). -/
def byteReady (i : Instr) (s : State) : Prop :=
  s.inited = true ∧ s.sw = false ∧ selected (ctxOf s) i = true

/-- When the spec enables an operation: the "Enabled" clauses of 40_start.md to 45_host_ops.md, with the refusals of
U1, U2, U5, U7, U9 and R167. -/
def enabled (s : State) : Instr → Prop
  | .init g => s.inited = false ∧ configLegal g = true ∧ paramsLegal s.params = true
  | .start => live s
  | .scllow => live s ∧ s.sw = true ∧ s.scl = false
  | .abort => live s ∧ s.sw = true ∧ s.params.startWaitAbort = true
  | .byteAmNak rx => byteReady (.byteAmNak rx) s
  | .byteAmRd rx => byteReady (.byteAmRd rx) s
  | .byteAmWr rx => byteReady (.byteAmWr rx) s
  | .byteAmPost rx => byteReady (.byteAmPost rx) s
  | .byteRaNak rx => byteReady (.byteRaNak rx) s
  | .byteRaLoad rx => byteReady (.byteRaLoad rx) s
  | .byteRaPost rx => byteReady (.byteRaPost rx) s
  | .byteMrPre rx => byteReady (.byteMrPre rx) s
  | .byteMrNak rx => byteReady (.byteMrNak rx) s
  | .byteMrAck rx => byteReady (.byteMrAck rx) s
  | .byteMwData rx => byteReady (.byteMwData rx) s
  | .byteMwPost rx => byteReady (.byteMwPost rx) s
  | .byteIdPre rx => byteReady (.byteIdPre rx) s
  | .byteIdPost rx => byteReady (.byteIdPost rx) s
  | .byteIll5 rx => byteReady (.byteIll5 rx) s
  | .byteIll67 rx => byteReady (.byteIll67 rx) s
  | .stop => live s
  | .drainHit => hostReady s ∧ selected (ctxOf s) .drainHit = true
  | .drainMiss => hostReady s ∧ selected (ctxOf s) .drainMiss = true
  | .drainT => hostReady s ∧ s.params.drainAtomicity = .inner
  | .drainC => live s ∧ s.sw = false ∧ s.armed = true ∧ s.params.drainAtomicity = .inner
  | .ongoing => hostReady s
  | .hrd i => hostReady s ∧ i.toNat < s.n.toNat
  | .hwr i _ => hostReady s ∧ i.toNat < s.n.toNat ∧ (s.st = .idle ∨ s.st = .addressMatch)

/-- The operations of the host context that begin a call or run inside one, INIT apart (R3, R188). -/
def isHostCall : Instr → Bool
  | .drainHit | .drainMiss | .drainT | .drainC | .ongoing | .hrd _ | .hwr _ _ => true
  | .init _ | .start | .scllow | .abort | .byteAmNak _ | .byteAmRd _ | .byteAmWr _ | .byteAmPost _ | .byteRaNak _
  | .byteRaLoad _ | .byteRaPost _ | .byteMrPre _ | .byteMrNak _ | .byteMrAck _ | .byteMwData _ | .byteMwPost _
  | .byteIdPre _ | .byteIdPost _ | .byteIll5 _ | .byteIll67 _ | .stop => false

/-- The BYTE rows (R110). -/
def isByte : Instr → Bool
  | .byteAmNak _ | .byteAmRd _ | .byteAmWr _ | .byteAmPost _ | .byteRaNak _
  | .byteRaLoad _ | .byteRaPost _ | .byteMrPre _ | .byteMrNak _ | .byteMrAck _ | .byteMwData _ | .byteMwPost _
  | .byteIdPre _ | .byteIdPost _ | .byteIll5 _ | .byteIll67 _ => true
  | .init _ | .start | .scllow | .abort | .stop | .drainHit | .drainMiss | .drainT | .drainC | .ongoing | .hrd _
  | .hwr _ _ => false

/-- The BYTE rows that store a data byte: BYTE.MW.DATA alone (R130). -/
def isDataWrite : Instr → Bool
  | .byteMwData _ => true
  | .byteAmNak _ | .byteAmRd _ | .byteAmWr _ | .byteAmPost _ | .byteRaNak _
  | .byteRaLoad _ | .byteRaPost _ | .byteMrPre _ | .byteMrNak _ | .byteMrAck _ | .byteMwPost _
  | .byteIdPre _ | .byteIdPost _ | .byteIll5 _ | .byteIll67 _
  | .init _ | .start | .scllow | .abort | .stop | .drainHit | .drainMiss | .drainT | .drainC | .ongoing | .hrd _
  | .hwr _ _ => false

/-- A DRAIN that hits here (R163, R170): DRAIN.HIT, or DRAIN.C with the stop flag set. -/
def hitsAt (s : State) : Instr → Bool
  | .drainHit => true
  | .drainC => s.stopPending
  | .byteAmNak _ | .byteAmRd _ | .byteAmWr _ | .byteAmPost _ | .byteRaNak _
  | .byteRaLoad _ | .byteRaPost _ | .byteMrPre _ | .byteMrNak _ | .byteMrAck _ | .byteMwData _ | .byteMwPost _
  | .byteIdPre _ | .byteIdPost _ | .byteIll5 _ | .byteIll67 _ | .init _
  | .start | .scllow | .abort | .stop | .drainMiss | .drainT | .ongoing | .hrd _ | .hwr _ _ => false

/-- Run operations one after another (R57); none where one of them does not answer a next state. -/
def runOps : List Instr → State → Option State
  | [], s => some s
  | i :: is, s =>
    match exec i s with
    | .next t => runOps is t
    | .fault _ => none
    | .refused _ => none

/-- No DRAIN hits while these operations run one after another. -/
def noHit : List Instr → State → Prop
  | [], _ => True
  | i :: is, s =>
    hitsAt s i = false ∧
    match exec i s with
    | .next t => noHit is t
    | .fault _ => True
    | .refused _ => True

/-- A BYTE boundary with shift-register content `rx`, decoded as it stands (R110). -/
def execByte (rx : Byte) (s : State) : Host.Outcome State Fault Refusal :=
  exec (decodeByte (ctxOf s) rx) s

/-- BYTE boundaries one after another, each decoded in the state the earlier ones left (R110, R112). -/
def runBytes : List Byte → State → Option State
  | [], s => some s
  | rx :: rest, s =>
    match execByte rx s with
    | .next t => runBytes rest t
    | .fault _ => none
    | .refused _ => none

/-- The BYTE operands of a master that sends data bytes: each byte, then the acknowledge bit the line showed, which is
the block's own ACK (R78, R83 `MB`). -/
def dataBytes : List Byte → List Byte
  | [] => []
  | d :: ds => d :: 0 :: dataBytes ds

end Sys2Proof.Machine
end

