-- ==== Sys2Proof/Certificates/Slice0/Obligations.lean ====
section
/-! DEFINITION. The statements for the provers. Each docstring names the rule it formalises; where a statement rests on a
clause the spec marks as its own decision (`Dn` of 92_eei_decisions.md) or as derived, or on a choice of the model, the
docstring says so and OBLIGATIONS.json gives it the basis `derived`. -/

open Sys2Proof Sys2Proof.Machine

/-! ### Words and rows -/

/-- Event words written out from R74 and R79 decode to the operations they stand for: `ADDR = 0x40`, `N = 2`. -/
def Obligations.DecodesSpecWords : Prop :=
  let c (st : ProtocolState) (ph : Phase) (d p : Bool) : Ctx :=
    { st := st, ph := ph, addr := 0x40, n := 2, dirtyPos := d, stopPending := p }
  decode (c .idle .pre false false) 0x10000 none = .instr .start ∧
  decode (c .addressMatch .pre false false) 0x20000 none = .instr .scllow ∧
  decode (c .addressMatch .pre false false) 0x38000 none = .instr (.byteAmWr 0x80) ∧
  decode (c .addressMatch .pre false false) 0x38100 none = .instr (.byteAmRd 0x81) ∧
  decode (c .addressMatch .pre false false) 0x34200 none = .instr (.byteAmNak 0x42) ∧
  decode (c .registerAddress .pre false false) 0x30100 none = .instr (.byteRaLoad 0x01) ∧
  decode (c .registerAddress .pre false false) 0x30500 none = .instr (.byteRaNak 0x05) ∧
  decode (c .masterWrite .pre false false) 0x39900 none = .instr (.byteMwData 0x99) ∧
  decode (c .masterRead .post false false) 0x30100 none = .instr (.byteMrNak 0x01) ∧
  decode (c .masterRead .post false false) 0x30000 none = .instr (.byteMrAck 0x00) ∧
  decode (c .idle .pre false false) 0x40000 none = .instr .stop ∧
  decode (c .masterWrite .pre true true) 0x50000 none = .instr .drainHit ∧
  decode (c .masterWrite .pre true false) 0x50000 none = .instr .drainMiss ∧
  decode (c .masterWrite .pre true false) 0x50100 none = .instr .drainT ∧
  decode (c .idle .pre true true) 0x50200 none = .instr .drainC ∧
  decode (c .idle .pre false false) 0x70100 none = .instr (.hrd 0x01) ∧
  decode (c .idle .pre false false) 0x8005A none = .instr (.hwr 0x00 0x5A) ∧
  decode (c .addressMatch .pre false false) 0x90000 none = .instr .abort ∧
  decode (c .idle .pre false false) 0xA0000 none = .illFormed .reservedOpcode

/-- R74, R79: for every well-formed operation whose row the table selects, decoding its event word (INIT's arguments
beside it) gives the operation back, with every operand at every value. -/
def Obligations.DecodeEncodeRoundTrip : Prop :=
  ∀ (c : Ctx) (i : Instr), i.wellFormed = true → selected c i = true → decode c (encode i) i.args = .instr i

/-- R74, R79, U8: whatever decodes is the word it was read from, bit for bit, and its row's pattern and condition hold;
INIT carries exactly the arguments beside the word. -/
def Obligations.DecodeIsSound : Prop :=
  ∀ (c : Ctx) (w : EventWord) (args : Option InitArgs) (i : Instr), decode c w args = .instr i →
    encode i = w ∧ selected c i = true ∧ ∀ g, i = .init g → args = some g

/-- R79: "the conditions of the rows that share a pattern are mutually exclusive": in every context at most one
operation of a given event word and arguments is selected. -/
def Obligations.SelectedRowIsUnique : Prop :=
  ∀ (c : Ctx) (i j : Instr), encode i = encode j → i.args = j.args → selected c i = true → selected c j = true → i = j

/-- R75: the address byte for a write is `ADDR * 2` and for a read `ADDR * 2 + 1`: the address field and the direction
bit come back out of them, and the block with that `ADDR` takes them as addressed for writing and for reading. -/
def Obligations.AddressByteFormat : Prop :=
  ∀ a : BitVec 7,
    addrField (BitVec.ofNat 8 (a.toNat * 2)) = a ∧ readBit (BitVec.ofNat 8 (a.toNat * 2)) = false ∧
    addrField (BitVec.ofNat 8 (a.toNat * 2 + 1)) = a ∧ readBit (BitVec.ofNat 8 (a.toNat * 2 + 1)) = true ∧
    ∀ c : Ctx, c.st = .addressMatch → c.ph = .pre → c.addr = a →
      decodeByte c (BitVec.ofNat 8 (a.toNat * 2)) = .byteAmWr (BitVec.ofNat 8 (a.toNat * 2)) ∧
      decodeByte c (BitVec.ofNat 8 (a.toNat * 2 + 1)) = .byteAmRd (BitVec.ofNat 8 (a.toNat * 2 + 1))

/-- R76: the register-address byte is an unsigned number, accepted exactly if `rx <= N-1`; with `N = 256` every value is
accepted. -/
def Obligations.RegisterAddressRange : Prop :=
  ∀ (c : Ctx) (rx : Byte), c.st = .registerAddress → c.ph = .pre → 1 ≤ c.n.toNat →
    (rx.toNat ≤ c.n.toNat - 1 → decodeByte c rx = .byteRaLoad rx) ∧
    (c.n.toNat - 1 < rx.toNat → decodeByte c rx = .byteRaNak rx) ∧
    (c.n = 256 → decodeByte c rx = .byteRaLoad rx)

/-! ### Steps -/

/-- A step runs the decoded operation: with no notification to deliver, the next entry of the run is decoded in the state
as it stands and executed with its clock level sampled; then what was raised meanwhile waits, and a start notification
clears the flag in the step that raises it (R32). The form of it is the model's choice: the run and its entries (log entry
4), the level sampled with each entry (log entry 5), notifications that wait from the end of the operation on (log entry
6), and that nothing raised during INIT and no byte boundary raised in the start wait is recorded (log entry 24). -/
def Obligations.StepRunsDecodedOperation : Prop :=
  ∀ (s : State) (e : Arrival) (rest : List Arrival) (i : Instr),
    s.startWaits = false → (s.byteWaits = none ∨ s.sw = true) → s.trace = e :: rest →
    decode (ctxOf s) e.word e.args = .instr i →
    (∀ t, exec i { s with trace := rest, scl := e.scl } = .next t →
      step s = .next (if s.inited then
        { t with
          stopPending := t.stopPending && !e.during.start
          startWaits := t.startWaits || e.during.start
          byteWaits := if t.sw then t.byteWaits else t.byteWaits.or e.during.byte } else t)) ∧
    (∀ f, exec i { s with trace := rest, scl := e.scl } = .fault f → step s = .fault f) ∧
    (∀ r, exec i { s with trace := rest, scl := e.scl } = .refused r → step s = .refused r)

/-- R183, R184 (the spec's decision D18): a waiting start notification is delivered first and a byte boundary that waits
beside it is dropped; a byte boundary waiting alone is delivered next, decoded in the state as it stands. -/
def Obligations.WaitingNotificationsAreDelivered : Prop :=
  (∀ s t : State, s.startWaits = true → exec .start { s with startWaits := false, byteWaits := none } = .next t →
    step s = .next t) ∧
  (∀ (s t : State) (rx : Byte), s.startWaits = false → s.byteWaits = some rx → s.sw = false →
    exec (decodeByte (ctxOf s) rx) { s with byteWaits := none } = .next t → step s = .next t)

/-- With nothing arriving the block stays as it is, except in the start wait with the clock line high and
`START_WAIT_ABORT` false, which is stuck (R103, U4; what a step with nothing arriving is, is the model's choice, log
entries 4 and 10). -/
def Obligations.NothingArrivesLeavesState : Prop :=
  ∀ s : State, s.startWaits = false → s.byteWaits = none → s.trace = [] →
    step s = if s.sw = true ∧ s.scl = true ∧ s.params.startWaitAbort = false then .fault .startWait else .next s

/-- R80 (b), U8: a run that holds a reserved operation code, a DRAIN word with `a > 2`, or a nonzero bit in an unused
operand field is ill formed, and the step is refused. -/
def Obligations.IllFormedWordsAreRefused : Prop :=
  ∀ (s : State) (e : Arrival) (rest : List Arrival),
    s.startWaits = false → s.byteWaits = none → s.trace = e :: rest →
    (10 ≤ (wordOp e.word).toNat → step s = .refused (.illFormed .reservedOpcode)) ∧
    (wordOp e.word = 5 → wordB e.word = 0 → 2 < (wordA e.word).toNat → step s = .refused (.illFormed .drainForm)) ∧
    (wordOp e.word = 3 ∨ wordOp e.word = 5 ∨ wordOp e.word = 7 → wordB e.word ≠ 0 →
      step s = .refused (.illFormed .unusedOperand)) ∧
    (wordOp e.word ∈ [0, 1, 2, 4, 6, 9] → wordA e.word ≠ 0 ∨ wordB e.word ≠ 0 →
      step s = .refused (.illFormed .unusedOperand))

/-! ### INIT -/

/-- R160, R38 (every value but the configuration is the spec's decision D15, D25): INIT in range latches the
configuration, gives every register its `REG_INIT` byte, and leaves the reset values; the parameters, the clock level and
the rest of the run stay. The model's choices: `armed` and `result`, fields of its own, are cleared (log entry 16), and of
lists longer than `N` the first `N` entries are used (log entry 15). -/
def Obligations.InitConfiguresAndResets : Prop :=
  ∀ (g : InitArgs) (s : State), s.inited = false → configLegal g = true → 1 ≤ s.params.dirtyW →
    ∃ t, exec (.init g) s = .next t ∧
      t.inited = true ∧ t.addr.toNat = g.addr ∧ t.n.toNat = g.n ∧
      (∀ m, g.mask = .globalMask m → t.maskMode = .globalMask ∧ t.gmask = m ∧ ∀ i : Byte, wmask t i = m) ∧
      (∀ ms, g.mask = .perReg ms → t.maskMode = .perReg ∧
        ∀ i : Byte, i.toNat < g.n → ms[i.toNat]? = some (wmask t i)) ∧
      (∀ i : Byte, i.toNat < g.n → g.reg[i.toNat]? = some (regAt t i)) ∧
      t.st = .idle ∧ t.ph = .pre ∧ t.off = 0 ∧ t.dirty = 0 ∧ t.sw = false ∧ t.drv = .release ∧
      t.stopPending = false ∧ t.startWaits = false ∧ t.byteWaits = none ∧ t.armed = false ∧ t.result = .nothing ∧
      t.params = s.params ∧ t.scl = s.scl ∧ t.trace = s.trace

/-- R6, R7, U1, U5: a second INIT, and a configuration or a `DIRTY_W` out of the ranges of R6, are refused. -/
def Obligations.InitRefusals : Prop :=
  (∀ (g : InitArgs) (s : State), s.inited = true → exec (.init g) s = .refused .secondInit) ∧
  (∀ (g : InitArgs) (s : State), s.inited = false →
    (128 ≤ g.addr ∨ g.n = 0 ∨ 256 < g.n ∨ g.reg.length < g.n ∨ s.params.dirtyW = 0 ∨
      ∃ ms, g.mask = .perReg ms ∧ ms.length < g.n) →
    exec (.init g) s = .refused .illegalConfig)

/-- R200, U9 (the spec's decision D15): before INIT no other operation is enabled. -/
def Obligations.BeforeInitOnlyInit : Prop :=
  ∀ (i : Instr) (s : State), s.inited = false → (∀ g, i ≠ .init g) → exec i s = .refused .notInitialised

/-! ### START, SCLLOW, ABORT -/

/-- R100 (its `ph <- pre` and `drv <- Release` are the spec's decisions D4, D28, the flag's clearing D12): START. -/
def Obligations.StartResetsSequencer : Prop :=
  ∀ s : State, s.inited = true → s.st.isReserved = false → s.sw = false →
    exec .start s = .next
      { s with st := .addressMatch, ph := .pre, sw := true, drv := .release, stopPending := false }

/-- R104 (the spec's decision D18): a start notification while the start handler waits changes nothing of the block; the
serial interface clears its flag at this start condition too (R32, the spec's decision D12; that D12 reaches an absorbed
start condition is the model's reading, log entry 12). -/
def Obligations.StartWhileWaitingIsAbsorbed : Prop :=
  ∀ s : State, s.inited = true → s.st.isReserved = false → s.sw = true →
    exec .start s = .next { s with stopPending := false }

/-- R101: SCLLOW is enabled only when `sw = 1` and `scl = 0`; it clears `sw` and nothing else, and the next byte boundary
then comes after 8 clock pulses. The invariants are a premise for the last clause. -/
def Obligations.ScllowEndsStartWait : Prop :=
  ∀ s : State, MachineInv s → s.inited = true →
    (s.sw = true → s.scl = false →
      exec .scllow s = .next { s with sw := false } ∧ nextLen s.ph = 8) ∧
    ((∃ t, exec .scllow s = .next t) → s.sw = true ∧ s.scl = false)

/-- R102 (an operation of the spec's decision D17): ABORT, enabled only when `sw = 1` and `START_WAIT_ABORT`. -/
def Obligations.AbortGivesUpWait : Prop :=
  ∀ s : State, s.inited = true → s.st.isReserved = false →
    (s.sw = true → s.params.startWaitAbort = true →
      exec .abort s = .next { s with st := .idle, sw := false, drv := .release }) ∧
    (s.sw = true → s.params.startWaitAbort = false → exec .abort s = .refused .abortDisabled) ∧
    (s.sw = false → exec .abort s = .refused .noStartWait)

/-! ### BYTE: the address matcher and the register address -/

/-- R114 (row 1): the address is neither `ADDR` nor 0: NAK, Idle; nothing else but the phase changes. -/
def Obligations.ForeignAddressIsRefused : Prop :=
  ∀ (rx : Byte) (s : State), s.inited = true → s.sw = false → s.st = .addressMatch → s.ph = .pre →
    addrField rx ≠ s.addr → addrField rx ≠ 0 →
    exec (.byteAmNak rx) s = .next { s with drv := .release, st := .idle, ph := .post }

/-- R115 with the match predicate of R113 (the spec's decision D6: address 0 matches): addressed for reading. -/
def Obligations.AddressedForReading : Prop :=
  ∀ (rx : Byte) (s : State), s.inited = true → s.sw = false → s.st = .addressMatch → s.ph = .pre →
    (addrField rx = s.addr ∨ addrField rx = 0) → readBit rx = true →
    exec (.byteAmRd rx) s = .next { s with drv := .ackLow, st := .masterRead, ph := .post }

/-- R116 with the match predicate of R113 (the spec's decision D6: address 0 matches): addressed for writing, the
pointer is reset. -/
def Obligations.AddressedForWriting : Prop :=
  ∀ (rx : Byte) (s : State), s.inited = true → s.sw = false → s.st = .addressMatch → s.ph = .pre →
    (addrField rx = s.addr ∨ addrField rx = 0) → readBit rx = false →
    exec (.byteAmWr rx) s = .next { s with drv := .ackLow, off := 0, st := .registerAddress, ph := .post }

/-- R117 (row 4): a register address above `N-1` is refused; nothing else but the phase changes. -/
def Obligations.RegisterAddressOutOfRangeIsRefused : Prop :=
  ∀ (rx : Byte) (s : State), s.inited = true → s.sw = false → s.st = .registerAddress → s.ph = .pre →
    s.n.toNat ≤ rx.toNat →
    exec (.byteRaNak rx) s = .next { s with drv := .release, st := .idle, ph := .post }

/-- R118 (row 5): a register address in range is loaded as it stands. -/
def Obligations.RegisterPointerIsLoaded : Prop :=
  ∀ (rx : Byte) (s : State), s.inited = true → s.sw = false → s.st = .registerAddress → s.ph = .pre →
    rx.toNat < s.n.toNat →
    exec (.byteRaLoad rx) s = .next { s with drv := .ackLow, off := rx, st := .masterWrite, ph := .post }

/-- R119, R131 (the spec's decision D7): the half after the acknowledge in RegisterAddress and MasterWrite releases the
line, inverts the phase and changes nothing else. -/
def Obligations.AcknowledgeHalvesAreTransparent : Prop :=
  ∀ (rx : Byte) (s : State), s.inited = true → s.sw = false → s.ph = .post →
    (s.st = .registerAddress → exec (.byteRaPost rx) s = .next { s with drv := .release, ph := .pre }) ∧
    (s.st = .masterWrite → exec (.byteMwPost rx) s = .next { s with drv := .release, ph := .pre })

/-! ### BYTE: writing and reading registers -/

/-- R130 (row 6; the wrap of `dirty` is the spec's decision D14): the data byte is stored through the mask at the old
pointer, every other register reads as before, the count and the pointer advance, the byte is acknowledged, and nothing
else changes. The two premises on the file and the pointer are clauses of `MachineInv`. -/
def Obligations.DataByteIsStoredThroughMask : Prop :=
  ∀ (rx : Byte) (s : State), s.inited = true → s.sw = false → s.st = .masterWrite → s.ph = .pre →
    Memory.wf s.reg → s.off.toNat < s.n.toNat →
    ∃ t, exec (.byteMwData rx) s = .next t ∧
      Memory.read t.reg s.off.toNat =
        (Memory.read s.reg s.off.toNat &&& ~~~ wmask s s.off) ||| (rx &&& wmask s s.off) ∧
      (∀ k, k ≠ s.off.toNat → Memory.read t.reg k = Memory.read s.reg k) ∧
      t.dirty = (s.dirty + 1) % 2 ^ s.params.dirtyW ∧
      t.off = BitVec.ofNat 8 ((s.off.toNat + 1) % s.n.toNat) ∧
      t = { s with reg := t.reg, dirty := t.dirty, off := t.off, drv := .ackLow, ph := .post }

/-- R132: bit `k` of the stored value is bit `k` of the data byte where the mask bit is 1 and of the old value where it is
0, and storing twice is storing once. -/
def Obligations.MaskLawPerBit : Prop :=
  ∀ o v m : Byte,
    maskedByte o v m = (o &&& ~~~m) ||| (v &&& m) ∧
    (∀ k, k < 8 → (maskedByte o v m).getLsbD k = if m.getLsbD k then v.getLsbD k else o.getLsbD k) ∧
    maskedByte (maskedByte o v m) v m = maskedByte o v m

/-- R140 (the spec's decision D10): after the eight bits of a register byte the line is released for the master's
acknowledge; nothing is loaded. -/
def Obligations.ReadReleasesForAcknowledge : Prop :=
  ∀ (rx : Byte) (s : State), s.inited = true → s.sw = false → s.st = .masterRead → s.ph = .pre →
    exec (.byteMrPre rx) s = .next { s with drv := .release, ph := .post }

/-- R141 (row 8): the master's NAK ends the read with the pointer reset and the state Idle. -/
def Obligations.MasterNakEndsRead : Prop :=
  ∀ (rx : Byte) (s : State), s.inited = true → s.sw = false → s.st = .masterRead → s.ph = .post →
    rx.getLsbD 0 = true →
    exec (.byteMrNak rx) s = .next { s with off := 0, st := .idle, drv := .release, ph := .pre }

/-- R142 (row 9) under both values of the open parameter `READ_ORDER` (D11): advance the pointer and load the register at
the new pointer, or load at the old one and advance. The premise on the pointer is a clause of `MachineInv`. -/
def Obligations.MasterAckSendsNextRegister : Prop :=
  ∀ (rx : Byte) (s : State), s.inited = true → s.sw = false → s.st = .masterRead → s.ph = .post →
    rx.getLsbD 0 = false → s.off.toNat < s.n.toNat →
    let next : Byte := BitVec.ofNat 8 ((s.off.toNat + 1) % s.n.toNat)
    (s.params.readOrder = .advanceThenLoad →
      exec (.byteMrAck rx) s =
        .next { s with off := next, drv := .byte (Memory.read s.reg next.toNat), ph := .pre }) ∧
    (s.params.readOrder = .loadThenAdvance →
      exec (.byteMrAck rx) s =
        .next { s with off := next, drv := .byte (Memory.read s.reg s.off.toNat), ph := .pre })

/-- R143 (derived by the spec from R115, R142, R78): the first byte the master receives of a read is the register after
the pointer under `ADVANCE_THEN_LOAD` and the register at the pointer under `LOAD_THEN_ADVANCE`. -/
def Obligations.FirstByteOfRead : Prop :=
  ∀ (addrByte ack : Byte) (s : State), MachineInv s → s.inited = true → s.sw = false → s.st = .addressMatch → s.ph = .pre →
    (addrField addrByte = s.addr ∨ addrField addrByte = 0) → readBit addrByte = true → ack.getLsbD 0 = false →
    ∃ t u, execByte addrByte s = .next t ∧ t.drv = .ackLow ∧ execByte ack t = .next u ∧ u.st = .masterRead ∧
      u.off.toNat = (s.off.toNat + 1) % s.n.toNat ∧
      (s.params.readOrder = .advanceThenLoad →
        u.drv = .byte (Memory.read s.reg ((s.off.toNat + 1) % s.n.toNat))) ∧
      (s.params.readOrder = .loadThenAdvance → u.drv = .byte (Memory.read s.reg s.off.toNat))

/-! ### BYTE: Idle and the defensive row -/

/-- R150, R151: in Idle every byte boundary releases the line and inverts the phase, and changes nothing else. -/
def Obligations.IdleIgnoresBytes : Prop :=
  ∀ (rx : Byte) (s : State), s.inited = true → s.sw = false → s.st = .idle →
    (s.ph = .pre → exec (.byteIdPre rx) s = .next { s with drv := .release, ph := .post }) ∧
    (s.ph = .post → exec (.byteIdPost rx) s = .next { s with drv := .release, ph := .pre })

/-- R152, R153 (row 10): AddressMatch in phase post, and the reserved state codes, give the transaction up. -/
def Obligations.DefensiveRowsGiveUp : Prop :=
  ∀ (rx : Byte) (s : State), s.inited = true → s.sw = false →
    (s.st = .addressMatch → s.ph = .post →
      exec (.byteAmPost rx) s = .next { s with drv := .release, st := .idle, ph := .pre }) ∧
    (s.st = .reserved5 →
      exec (.byteIll5 rx) s =
        .next { s with drv := .release, st := .idle, ph := if s.ph = .pre then .post else .pre }) ∧
    (s.st = .reserved6 ∨ s.st = .reserved7 →
      exec (.byteIll67 rx) s =
        .next { s with drv := .release, st := .idle, ph := if s.ph = .pre then .post else .pre })

/-! ### The stop condition and the host -/

/-- R161 (the spec's decision D12): STOP sets the serial interface's flag and nothing else, whatever `sw` is. -/
def Obligations.StopOnlySetsFlag : Prop :=
  ∀ s : State, s.inited = true → s.st.isReserved = false → exec .stop s = .next { s with stopPending := true }

/-- R163: a DRAIN that hits puts the state to Idle, returns the count and clears it, and changes nothing else. -/
def Obligations.DrainHitReportsAndClears : Prop :=
  ∀ s : State, s.inited = true → s.sw = false → s.armed = false →
    s.st = .masterWrite → 0 < s.dirty → s.stopPending = true →
    exec .drainHit s = .next { s with st := .idle, dirty := 0, result := .count s.dirty }

/-- R164: in every other case DRAIN returns 0 and nothing at all changes. -/
def Obligations.DrainMissReturnsZero : Prop :=
  ∀ s : State, s.inited = true → s.st.isReserved = false → s.sw = false → s.armed = false →
    (s.st ≠ .masterWrite ∨ s.dirty = 0 ∨ s.stopPending = false) →
    exec .drainMiss s = .next { s with result := .count 0 }

/-- R170 (under `DRAIN_ATOMICITY = INNER`, the spec's decision D13): the test alone arms the host or returns 0; under
`WHOLE` it does not exist. -/
def Obligations.DrainTestArms : Prop :=
  ∀ s : State, s.inited = true → s.st.isReserved = false → s.sw = false → s.armed = false →
    (s.params.drainAtomicity = .inner → s.st = .masterWrite → 0 < s.dirty →
      exec .drainT s = .next { s with armed := true, result := .armed }) ∧
    (s.params.drainAtomicity = .inner → s.st ≠ .masterWrite ∨ s.dirty = 0 →
      exec .drainT s = .next { s with result := .count 0 }) ∧
    (s.params.drainAtomicity = .whole → exec .drainT s = .refused .drainNotSplit)

/-- R170 (the spec's decision D13): the critical section alone, enabled only when armed; it does not test the state
again, so it hits from any of the five states. -/
def Obligations.DrainCriticalSection : Prop :=
  ∀ s : State, s.inited = true → s.st.isReserved = false → s.sw = false → s.params.drainAtomicity = .inner →
    (s.armed = true → s.stopPending = true →
      exec .drainC s = .next { s with armed := false, st := .idle, dirty := 0, result := .count s.dirty }) ∧
    (s.armed = true → s.stopPending = false →
      exec .drainC s = .next { s with armed := false, result := .count 0 }) ∧
    (s.armed = false → exec .drainC s = .refused .notArmed)

/-- R162, R170: the two steps of a split DRAIN taken back to back are the whole DRAIN. -/
def Obligations.SplitDrainIsWholeDrain : Prop :=
  ∀ s : State, s.inited = true → s.st.isReserved = false → s.sw = false → s.armed = false →
    s.params.drainAtomicity = .inner →
    ∃ i t u, decode (ctxOf s) 0x50000 none = .instr i ∧ exec i s = .next u ∧ exec .drainT s = .next t ∧
      ((t.armed = false ∧ t = u) ∨ (t.armed = true ∧ exec .drainC t = .next u))

/-- R168 (derived by the spec from R130, R163, R164), under both values of `DRAIN_ATOMICITY`: a host call that changes the
state or the count needed the stop flag, returned the whole count, cleared it, and left the state Idle; and every START,
an absorbed one too (log entry 12), leaves the flag clear. -/
def Obligations.DrainCountsExactly : Prop :=
  (∀ (i : Instr) (s t : State), isHostCall i = true → exec i s = .next t → (t.dirty ≠ s.dirty ∨ t.st ≠ s.st) →
    s.stopPending = true ∧ t.result = .count s.dirty ∧ t.dirty = 0 ∧ t.st = .idle) ∧
  (∀ s t : State, exec .start s = .next t → t.stopPending = false)

/-- R165: ONGOING returns true iff the state is neither Idle nor AddressMatch, and changes nothing. -/
def Obligations.OngoingAnswersFromState : Prop :=
  ∀ s : State, s.inited = true → s.st.isReserved = false → s.sw = false → s.armed = false →
    exec .ongoing s = .next { s with result := .ongoing (decide (s.st ≠ .idle ∧ s.st ≠ .addressMatch)) }

/-- R166 (admitted in every state by the spec's decision D19): HRD returns the register and changes nothing. -/
def Obligations.HostReadReturnsRegister : Prop :=
  ∀ (i : Byte) (s : State), s.inited = true → s.st.isReserved = false → s.sw = false → s.armed = false →
    i.toNat < s.n.toNat →
    exec (.hrd i) s = .next { s with result := .byte (Memory.read s.reg i.toNat) }

/-- R167 (the spec's decision D19): between transactions HWR stores the whole byte, unmasked; every other register reads
as before and nothing else changes. The premise on the file is a clause of `MachineInv`. -/
def Obligations.HostWriteStoresWholeByte : Prop :=
  ∀ (i v : Byte) (s : State), s.inited = true → s.sw = false → s.armed = false →
    (s.st = .idle ∨ s.st = .addressMatch) → i.toNat < s.n.toNat → Memory.wf s.reg →
    ∃ t, exec (.hwr i v) s = .next t ∧ Memory.read t.reg i.toNat = v ∧
      (∀ k, k ≠ i.toNat → Memory.read t.reg k = Memory.read s.reg k) ∧ t = { s with reg := t.reg }

/-- R166, R167, U2 (the spec's decision D19): an index of `N` or more is refused, and HWR is refused while a transaction is
going on. -/
def Obligations.HostAccessRefusals : Prop :=
  ∀ (i v : Byte) (s : State), s.inited = true → s.st.isReserved = false → s.sw = false → s.armed = false →
    (s.n.toNat ≤ i.toNat →
      exec (.hrd i) s = .refused .indexOutOfFile ∧ exec (.hwr i v) s = .refused .indexOutOfFile) ∧
    (i.toNat < s.n.toNat → s.st = .registerAddress ∨ s.st = .masterRead ∨ s.st = .masterWrite →
      exec (.hwr i v) s = .refused .transactionOngoing)

/-- U7 (log entry 8): on a reserved state code every operation but BYTE (and INIT, which may have run already) is
refused. -/
def Obligations.ReservedStateRefusesOthers : Prop :=
  ∀ (i : Instr) (s : State), s.inited = true → s.st.isReserved = true → isByte i = false → (∀ g, i ≠ .init g) →
    exec i s = .refused .reservedState

/-! ### Rules of the whole machine -/

/-- R36 at reset: the machine before INIT meets the invariants. -/
def Obligations.ResetMeetsInvariants : Prop := MachineInv State.reset

/-- R36, R25, R27, R55, R183: every step keeps the invariants, from every state that meets them. -/
def Obligations.StepKeepsInvariants : Prop := ∀ s t : State, MachineInv s → step s = .next t → MachineInv t

/-- An operation answers a next state exactly where the spec enables it (the "Enabled" clauses of files 40 to 45, the
refusals of 93). -/
def Obligations.CompletesExactlyWhenEnabled : Prop :=
  ∀ (i : Instr) (s : State), MachineInv s → ((∃ t, exec i s = .next t) ↔ enabled s i)

/-- R103, U4 (that the stuck state is a fault of this name, and what SCLLOW does with the clock line high where ABORT may
end the wait, is the model's choice, log entry 10): an operation faults exactly if it is SCLLOW, `sw = 1`, the clock line
does not fall, and the wait may not be abandoned; where it may, SCLLOW is refused. -/
def Obligations.FaultsOnlyInStartWait : Prop :=
  (∀ (i : Instr) (s : State) (f : Fault), MachineInv s → s.inited = true →
    (exec i s = .fault f ↔
      f = .startWait ∧ i = .scllow ∧ s.sw = true ∧ s.scl = true ∧ s.params.startWaitAbort = false)) ∧
  (∀ s : State, MachineInv s → s.inited = true → s.sw = true → s.scl = true → s.params.startWaitAbort = true →
    exec .scllow s = .refused .clockHigh)

/-- R110: BYTE is total: after INIT, when `sw = 0`, in every state (the reserved codes too) and phase, with every operand,
exactly one row applies, the word decodes to it, and it completes; otherwise none does. The premise on the pointer is a
clause of `MachineInv`. -/
def Obligations.EveryByteTakesOneRow : Prop :=
  (∀ (rx : Byte) (s : State), s.off.toNat < s.n.toNat → s.inited = true → s.sw = false →
    ∃ i t, decode (ctxOf s) (eventWord 3 rx 0) none = .instr i ∧ exec i s = .next t ∧
      ∀ j u, isByte j = true → j.operandA = rx → exec j s = .next u → j = i) ∧
  (∀ (i : Instr) (s t : State), isByte i = true → exec i s = .next t → s.inited = true ∧ s.sw = false)

/-- R111 (that the phase inverts in every state is the spec's decision D3): every BYTE inverts the phase, and computes
the drive anew: what the drive was before makes no difference to the outcome. -/
def Obligations.BytesFlipPhaseAndRedrive : Prop :=
  (∀ (i : Instr) (s t : State), isByte i = true → exec i s = .next t → t.ph ≠ s.ph) ∧
  (∀ (i : Instr) (s : State) (d : Drive), isByte i = true → exec i { s with drv := d } = exec i s)

/-- U12, R141, R142 (`rx[7:1]` ignored, the spec's decision D9): where a BYTE ignores its operand the outcome does not
depend on it, and in a read's second half only bit 0 counts. -/
def Obligations.IgnoredOperandHasNoEffect : Prop :=
  (∀ (rx ry : Byte) (s : State),
    (s.ph = .post ∧ s.st ≠ .masterRead) ∨ (s.ph = .pre ∧ (s.st = .masterRead ∨ s.st = .idle)) →
    execByte rx s = execByte ry s) ∧
  (∀ (rx ry : Byte) (s : State), s.ph = .post → s.st = .masterRead → rx.getLsbD 0 = ry.getLsbD 0 →
    execByte rx s = execByte ry s)

/-- R103: while `sw = 1` no BYTE and no host operation runs, and the only ways out are SCLLOW with the clock line low and,
if allowed, ABORT. -/
def Obligations.OnlyScllowOrAbortEndsWait : Prop :=
  ∀ (i : Instr) (s : State), s.inited = true → s.sw = true →
    (isByte i = true ∨ isHostCall i = true → ∃ r, exec i s = .refused r) ∧
    (∀ t, exec i s = .next t → t.sw = false →
      (i = .scllow ∧ s.scl = false) ∨ (i = .abort ∧ s.params.startWaitAbort = true))

/-- R154 (derived by the spec): only START takes the block out of Idle; in Idle a BYTE leaves the registers, the pointer and
the count alone and the line released. -/
def Obligations.IdleLeftOnlyByStart : Prop :=
  ∀ (i : Instr) (s t : State), s.st = .idle → exec i s = .next t →
    (t.st ≠ .idle → i = .start) ∧
    (isByte i = true → t.reg = s.reg ∧ t.off = s.off ∧ t.dirty = s.dirty ∧ t.drv = .release)

/-- R21, R203 (derived by the spec): nothing but INIT, HWR and BYTE.MW.DATA writes the register file. -/
def Obligations.OnlyThreeOperationsWriteRegisters : Prop :=
  ∀ (i : Instr) (s t : State), exec i s = .next t → t.reg ≠ s.reg →
    (∃ g, i = .init g) ∨ (∃ k v, i = .hwr k v) ∨ ∃ rx, i = .byteMwData rx

/-- R56 (a): no operation but the host's own changes a register bit whose mask bit is 0. -/
def Obligations.BusRespectsWriteMask : Prop :=
  ∀ (i : Instr) (s t : State) (k : Byte), Memory.wf s.reg → (∀ g, i ≠ .init g) → (∀ j v, i ≠ .hwr j v) →
    exec i s = .next t → regAt t k &&& ~~~ wmask s k = regAt s k &&& ~~~ wmask s k

/-- R28, R31, R37 (that the masks are constant is the spec's decision D23): after INIT the configuration is constant. The
open parameters of 00_scope.md R6 are constant throughout; that they are data of the state which no operation changes is the
model's choice (log entry 3). -/
def Obligations.ConfigurationIsConstant : Prop :=
  ∀ (i : Instr) (s t : State), exec i s = .next t → t.params = s.params ∧
    (s.inited = true → t.inited = true ∧ t.addr = s.addr ∧ t.n = s.n ∧ t.maskMode = s.maskMode ∧ t.gmask = s.gmask ∧
      t.mask = s.mask)

/-- R25 (the width is the spec's decision D16): the operations that write the register pointer, each with the value it
writes: INIT, BYTE.AM.WR and BYTE.MR.NAK write 0, BYTE.RA.LOAD its operand, BYTE.MW.DATA and BYTE.MR.ACK the next pointer
modulo `N`; every other operation leaves it. -/
def Obligations.PointerWriters : Prop :=
  ∀ (i : Instr) (s t : State), exec i s = .next t →
    let resets := (∃ g, i = .init g) ∨ (∃ rx, i = .byteAmWr rx) ∨ ∃ rx, i = .byteMrNak rx
    let advances := (∃ rx, i = .byteMwData rx) ∨ ∃ rx, i = .byteMrAck rx
    (resets → t.off = 0) ∧
    (∀ rx, i = .byteRaLoad rx → t.off = rx) ∧
    (advances → t.off = BitVec.ofNat 8 ((s.off.toNat + 1) % s.n.toNat)) ∧
    (¬ resets → (∀ rx, i ≠ .byteRaLoad rx) → ¬ advances → t.off = s.off)

/-- R27 (the width is the spec's decision D14): `dirty` is incremented by BYTE.MW.DATA, always, cleared by INIT and by a
DRAIN that hits, and written by nothing else. -/
def Obligations.DirtyWriters : Prop :=
  ∀ (i : Instr) (s t : State), exec i s = .next t →
    (isDataWrite i = true → t.dirty = (s.dirty + 1) % 2 ^ s.params.dirtyW) ∧
    (hitsAt s i = true ∨ (∃ g, i = .init g) → t.dirty = 0) ∧
    (isDataWrite i = false → hitsAt s i = false → (∀ g, i ≠ .init g) → t.dirty = s.dirty)

/-- R188: a host call writes neither the phase, the pointer, the drive nor `sw`, and writes the state only to Idle and only
in a DRAIN that hits. -/
def Obligations.HostContextRights : Prop :=
  ∀ (i : Instr) (s t : State), isHostCall i = true → exec i s = .next t →
    t.ph = s.ph ∧ t.off = s.off ∧ t.drv = s.drv ∧ t.sw = s.sw ∧ t.stopPending = s.stopPending ∧
    (t.st = s.st ∨ (hitsAt s i = true ∧ t.st = .idle)) ∧
    (t.reg = s.reg ∨ ((∃ k v, i = .hwr k v) ∧ (s.st = .idle ∨ s.st = .addressMatch)))

/-- R133: `(off+1) mod N` is `off+1` below `N-1` and 0 at `N-1`; and from pointer `p` the `j`-th data byte of a master that
writes goes to `(p+j-1) mod N` and after `j` bytes the pointer is `(p+j) mod N`. -/
def Obligations.WritingMovesPointerModuloN : Prop :=
  (∀ s : State, MachineInv s →
    (s.off.toNat < s.n.toNat - 1 → (nextPtr s.n s.off).toNat = s.off.toNat + 1) ∧
    (s.off.toNat = s.n.toNat - 1 → nextPtr s.n s.off = 0)) ∧
  (∀ (ds : List Byte) (s : State), MachineInv s → s.inited = true → s.sw = false → s.st = .masterWrite → s.ph = .pre →
    ∃ t, runBytes (dataBytes ds) s = some t ∧ t.off.toNat = (s.off.toNat + ds.length) % s.n.toNat ∧
      ∀ d : Byte, ∃ u, execByte d t = .next u ∧
        u.reg = Memory.write t.reg ((s.off.toNat + ds.length) % s.n.toNat)
          (maskedByte (Memory.read t.reg ((s.off.toNat + ds.length) % s.n.toNat)) d (wmask t t.off)))

/-- R134: while no DRAIN hits, the count grows by the number of BYTE.MW.DATA operations, modulo `2^DIRTY_W`; from a count
of 0 (after INIT or a hit) it equals that number modulo `2^DIRTY_W`. -/
def Obligations.DirtyCountsDataBytes : Prop :=
  ∀ (is : List Instr) (s t : State), s.inited = true → s.dirty < 2 ^ s.params.dirtyW → noHit is s →
    runOps is s = some t → t.dirty = (s.dirty + (is.filter isDataWrite).length) % 2 ^ s.params.dirtyW
end

