-- ==== Sys2Proof/Laws/Exec.lean ====
section
/-! SUPPORT. What each operation can do, said once: it answers a next state exactly under the stated condition, and
then this one. Later proofs cite these and unfold no meaning. -/

namespace Sys2Proof.Machine

theorem eventGate_none {s : State} : eventGate s = none ↔ live s := by
  unfold eventGate live
  cases s.inited <;> cases s.st.isReserved <;> simp

theorem byteGate_none {i : Instr} {s : State} : byteGate i s = none ↔ byteReady i s := by
  unfold byteGate byteReady
  cases s.inited <;> cases s.sw <;> cases selected (ctxOf s) i <;> simp

theorem threadGate_none {s : State} : threadGate s = none ↔ live s ∧ s.sw = false := by
  rw [← eventGate_none]
  unfold threadGate
  cases eventGate s <;> cases s.sw <;> simp

theorem hostGate_none {s : State} : hostGate s = none ↔ hostReady s := by
  have h := @threadGate_none s
  unfold hostGate hostReady
  rw [← and_assoc, ← h]
  cases threadGate s <;> cases s.armed <;> simp

theorem indexOk_iff {s : State} {i : Byte} : indexOk s i = true ↔ i.toNat < s.n.toNat := by
  simp [indexOk, inFile]

variable {s t : State}

theorem exec_init_next {g : InitArgs} :
    exec (.init g) s = .next t ↔ (s.inited = false ∧ configLegal g = true ∧ paramsLegal s.params = true) ∧ t = afterInit g s := by
  show execInit g s = _ ↔ _
  unfold execInit
  cases s.inited <;> cases configLegal g <;> cases paramsLegal s.params <;> simp [eq_comm]

theorem exec_start_next :
    exec .start s = .next t ↔ live s ∧ t = if s.sw then clearStop s else startEffect s := by
  show execStart s = _ ↔ _
  rw [← eventGate_none]
  unfold execStart
  cases eventGate s <;> cases s.sw <;> simp [eq_comm]

theorem exec_scllow_next :
    exec .scllow s = .next t ↔ (live s ∧ s.sw = true ∧ s.scl = false) ∧ t = { s with sw := false } := by
  show execScllow s = _ ↔ _
  rw [← eventGate_none]
  unfold execScllow
  cases eventGate s <;> cases s.sw <;> cases s.scl <;> cases s.params.startWaitAbort <;> simp [eq_comm]

theorem exec_abort_next :
    exec .abort s = .next t ↔ (live s ∧ s.sw = true ∧ s.params.startWaitAbort = true) ∧
      t = { s with st := .idle, sw := false, drv := .release } := by
  show execAbort s = _ ↔ _
  rw [← eventGate_none]
  unfold execAbort
  cases eventGate s <;> cases s.sw <;> cases s.params.startWaitAbort <;> simp [eq_comm]

theorem exec_stop_next :
    exec .stop s = .next t ↔ live s ∧ t = { s with stopPending := true } := by
  show execStop s = _ ↔ _
  rw [← eventGate_none]
  unfold execStop
  cases eventGate s <;> simp [eq_comm]

theorem exec_byteAmNak_next {rx : Byte} :
    exec (.byteAmNak rx) s = .next t ↔ byteReady (.byteAmNak rx) s ∧ t = endByte (raiseReject .addressMismatch s) := by
  show execByteAmNak rx s = _ ↔ _
  rw [← byteGate_none]
  unfold execByteAmNak
  cases byteGate (.byteAmNak rx) s <;> simp [eq_comm]

theorem exec_byteAmRd_next {rx : Byte} :
    exec (.byteAmRd rx) s = .next t ↔ byteReady (.byteAmRd rx) s ∧ t = endByte (goTo .masterRead (drive .ackLow s)) := by
  show execByteAmRd rx s = _ ↔ _
  rw [← byteGate_none]
  unfold execByteAmRd
  cases byteGate (.byteAmRd rx) s <;> simp [eq_comm]

theorem exec_byteAmWr_next {rx : Byte} :
    exec (.byteAmWr rx) s = .next t ↔ byteReady (.byteAmWr rx) s ∧ t = endByte (goTo .registerAddress (setPtr 0 (drive .ackLow s))) := by
  show execByteAmWr rx s = _ ↔ _
  rw [← byteGate_none]
  unfold execByteAmWr
  cases byteGate (.byteAmWr rx) s <;> simp [eq_comm]

theorem exec_byteAmPost_next {rx : Byte} :
    exec (.byteAmPost rx) s = .next t ↔ byteReady (.byteAmPost rx) s ∧ t = endByte (raiseReject .defensive s) := by
  show execByteAmPost rx s = _ ↔ _
  rw [← byteGate_none]
  unfold execByteAmPost
  cases byteGate (.byteAmPost rx) s <;> simp [eq_comm]

theorem exec_byteRaNak_next {rx : Byte} :
    exec (.byteRaNak rx) s = .next t ↔ byteReady (.byteRaNak rx) s ∧ t = endByte (raiseReject .registerOutOfRange s) := by
  show execByteRaNak rx s = _ ↔ _
  rw [← byteGate_none]
  unfold execByteRaNak
  cases byteGate (.byteRaNak rx) s <;> simp [eq_comm]

theorem exec_byteRaLoad_next {rx : Byte} :
    exec (.byteRaLoad rx) s = .next t ↔ byteReady (.byteRaLoad rx) s ∧ t = endByte (goTo .masterWrite (setPtr rx (drive .ackLow s))) := by
  show execByteRaLoad rx s = _ ↔ _
  rw [← byteGate_none]
  unfold execByteRaLoad
  cases byteGate (.byteRaLoad rx) s <;> simp [eq_comm]

theorem exec_byteRaPost_next {rx : Byte} :
    exec (.byteRaPost rx) s = .next t ↔ byteReady (.byteRaPost rx) s ∧ t = endByte (drive .release s) := by
  show execByteRaPost rx s = _ ↔ _
  rw [← byteGate_none]
  unfold execByteRaPost
  cases byteGate (.byteRaPost rx) s <;> simp [eq_comm]

theorem exec_byteMrPre_next {rx : Byte} :
    exec (.byteMrPre rx) s = .next t ↔ byteReady (.byteMrPre rx) s ∧ t = endByte (drive .release s) := by
  show execByteMrPre rx s = _ ↔ _
  rw [← byteGate_none]
  unfold execByteMrPre
  cases byteGate (.byteMrPre rx) s <;> simp [eq_comm]

theorem exec_byteMrNak_next {rx : Byte} :
    exec (.byteMrNak rx) s = .next t ↔ byteReady (.byteMrNak rx) s ∧ t = endByte (drive .release (goTo .idle (setPtr 0 s))) := by
  show execByteMrNak rx s = _ ↔ _
  rw [← byteGate_none]
  unfold execByteMrNak
  cases byteGate (.byteMrNak rx) s <;> simp [eq_comm]

theorem exec_byteMwPost_next {rx : Byte} :
    exec (.byteMwPost rx) s = .next t ↔ byteReady (.byteMwPost rx) s ∧ t = endByte (drive .release s) := by
  show execByteMwPost rx s = _ ↔ _
  rw [← byteGate_none]
  unfold execByteMwPost
  cases byteGate (.byteMwPost rx) s <;> simp [eq_comm]

theorem exec_byteIdPre_next {rx : Byte} :
    exec (.byteIdPre rx) s = .next t ↔ byteReady (.byteIdPre rx) s ∧ t = endByte (goTo .idle (drive .release s)) := by
  show execByteIdPre rx s = _ ↔ _
  rw [← byteGate_none]
  unfold execByteIdPre
  cases byteGate (.byteIdPre rx) s <;> simp [eq_comm]

theorem exec_byteIdPost_next {rx : Byte} :
    exec (.byteIdPost rx) s = .next t ↔ byteReady (.byteIdPost rx) s ∧ t = endByte (goTo .idle (drive .release s)) := by
  show execByteIdPost rx s = _ ↔ _
  rw [← byteGate_none]
  unfold execByteIdPost
  cases byteGate (.byteIdPost rx) s <;> simp [eq_comm]

theorem exec_byteIll5_next {rx : Byte} :
    exec (.byteIll5 rx) s = .next t ↔ byteReady (.byteIll5 rx) s ∧ t = endByte (raiseReject .defensive s) := by
  show execByteIll5 rx s = _ ↔ _
  rw [← byteGate_none]
  unfold execByteIll5
  cases byteGate (.byteIll5 rx) s <;> simp [eq_comm]

theorem exec_byteIll67_next {rx : Byte} :
    exec (.byteIll67 rx) s = .next t ↔ byteReady (.byteIll67 rx) s ∧ t = endByte (raiseReject .defensive s) := by
  show execByteIll67 rx s = _ ↔ _
  rw [← byteGate_none]
  unfold execByteIll67
  cases byteGate (.byteIll67 rx) s <;> simp [eq_comm]

theorem exec_byteMwData_next {rx : Byte} :
    exec (.byteMwData rx) s = .next t ↔ (byteReady (.byteMwData rx) s ∧ s.off.toNat < s.n.toNat) ∧
      t = endByte (drive .ackLow (advancePtr (countWrite (storeMasked rx s)))) := by
  show execByteMwData rx s = _ ↔ _
  rw [← byteGate_none, ← indexOk_iff]
  unfold execByteMwData
  cases byteGate (.byteMwData rx) s <;> cases indexOk s s.off <;> simp [eq_comm]

theorem exec_byteMrAck_next {rx : Byte} :
    exec (.byteMrAck rx) s = .next t ↔ (byteReady (.byteMrAck rx) s ∧ (loadPtr s).toNat < s.n.toNat) ∧
      t = endByte (advanceAndLoad s) := by
  show execByteMrAck rx s = _ ↔ _
  rw [← byteGate_none, ← indexOk_iff]
  unfold execByteMrAck
  cases byteGate (.byteMrAck rx) s <;> cases indexOk s (loadPtr s) <;> simp [eq_comm]

/-- The two orders of R142 in one form: the pointer advances, and the byte loaded is the one at `loadPtr`. -/
theorem advanceAndLoad_eq :
    advanceAndLoad s = { s with off := nextPtr s.n s.off, drv := .byte (regAt s (loadPtr s)) } := by
  unfold advanceAndLoad loadPtr
  cases s.params.readOrder <;> rfl

theorem exec_drainHit_next :
    exec .drainHit s = .next t ↔ (hostReady s ∧ selected (ctxOf s) .drainHit = true) ∧ t = drainEffect s := by
  show execDrainHit s = _ ↔ _
  rw [← hostGate_none]
  unfold execDrainHit
  cases hostGate s <;> cases selected (ctxOf s) .drainHit <;> simp [eq_comm]

theorem exec_drainMiss_next :
    exec .drainMiss s = .next t ↔ (hostReady s ∧ selected (ctxOf s) .drainMiss = true) ∧
      t = giveResult (.count 0) s := by
  show execDrainMiss s = _ ↔ _
  rw [← hostGate_none]
  unfold execDrainMiss
  cases hostGate s <;> cases selected (ctxOf s) .drainMiss <;> simp [eq_comm]

theorem exec_drainT_next :
    exec .drainT s = .next t ↔ (hostReady s ∧ s.params.drainAtomicity = .inner) ∧
      t = if s.st = .masterWrite ∧ 0 < s.dirty then { s with armed := true, result := .armed }
          else giveResult (.count 0) s := by
  show execDrainT s = _ ↔ _
  rw [← hostGate_none]
  unfold execDrainT
  by_cases hc : s.st = .masterWrite ∧ 0 < s.dirty <;> cases hostGate s <;> cases s.params.drainAtomicity <;>
    simp [hc] <;> exact eq_comm

theorem exec_drainC_next :
    exec .drainC s = .next t ↔ ((live s ∧ s.sw = false) ∧ s.armed = true ∧ s.params.drainAtomicity = .inner) ∧
      t = if s.stopPending then drainEffect { s with armed := false }
          else giveResult (.count 0) { s with armed := false } := by
  show execDrainC s = _ ↔ _
  rw [← threadGate_none]
  unfold execDrainC
  cases threadGate s <;> cases s.params.drainAtomicity <;> cases s.armed <;> cases s.stopPending <;> simp [eq_comm]

theorem exec_ongoing_next :
    exec .ongoing s = .next t ↔ hostReady s ∧ t = giveResult (.ongoing (ongoing s.st)) s := by
  show execOngoing s = _ ↔ _
  rw [← hostGate_none]
  unfold execOngoing
  cases hostGate s <;> simp [eq_comm]

theorem exec_hrd_next {i : Byte} :
    exec (.hrd i) s = .next t ↔ (hostReady s ∧ i.toNat < s.n.toNat) ∧
      t = giveResult (.byte (regAt s i)) s := by
  show execHrd i s = _ ↔ _
  rw [← hostGate_none, ← indexOk_iff]
  unfold execHrd
  cases hostGate s <;> cases indexOk s i <;> simp [eq_comm]

theorem exec_hwr_next {i v : Byte} :
    exec (.hwr i v) s = .next t ↔ (hostReady s ∧ i.toNat < s.n.toNat ∧ ongoing s.st = false) ∧
      t = storeReg i v s := by
  show execHwr i v s = _ ↔ _
  rw [← hostGate_none, ← indexOk_iff]
  unfold execHwr
  cases hostGate s <;> cases indexOk s i <;> cases ongoing s.st <;> simp [eq_comm]

end Sys2Proof.Machine
end

