-- ==== Sys2Proof/Laws/Rows.lean ====
section
/-! SUPPORT. When the table selects a row, said once per row (30_encoding.md R72, R79). -/

namespace Sys2Proof

variable {c : Ctx}

theorem selected_iff {i : Instr} :
    selected c i = true ↔ rowKey i.opcode c.st c.ph &&& rowMask i = rowMatch i ∧ rowCond c i = true := by
  simp [selected]

theorem selected_byteAmNak {rx : Byte} :
    selected c (.byteAmNak rx) = true ↔ c.st = .addressMatch ∧ c.ph = .pre ∧ addrField rx ≠ c.addr ∧ addrField rx ≠ 0 := by
  rw [selected_iff, ← and_assoc]
  refine and_congr ?_ ?_
  · show rowKey _ c.st c.ph &&& _ = _ ↔ _
    simp only [Instr.opcode, rowMask, rowMatch]
    cases c.st <;> cases c.ph <;> decide
  · simp [rowCond]

theorem selected_byteAmRd {rx : Byte} :
    selected c (.byteAmRd rx) = true ↔ c.st = .addressMatch ∧ c.ph = .pre ∧ (addrField rx = c.addr ∨ addrField rx = 0) ∧ readBit rx = true := by
  rw [selected_iff, ← and_assoc]
  refine and_congr ?_ ?_
  · show rowKey _ c.st c.ph &&& _ = _ ↔ _
    simp only [Instr.opcode, rowMask, rowMatch]
    cases c.st <;> cases c.ph <;> decide
  · simp [rowCond]

theorem selected_byteAmWr {rx : Byte} :
    selected c (.byteAmWr rx) = true ↔ c.st = .addressMatch ∧ c.ph = .pre ∧ (addrField rx = c.addr ∨ addrField rx = 0) ∧ readBit rx = false := by
  rw [selected_iff, ← and_assoc]
  refine and_congr ?_ ?_
  · show rowKey _ c.st c.ph &&& _ = _ ↔ _
    simp only [Instr.opcode, rowMask, rowMatch]
    cases c.st <;> cases c.ph <;> decide
  · simp [rowCond]

theorem selected_byteAmPost {rx : Byte} :
    selected c (.byteAmPost rx) = true ↔ c.st = .addressMatch ∧ c.ph = .post := by
  rw [selected_iff]
  simp only [Instr.opcode, rowMask, rowMatch, rowCond, and_true]
  cases c.st <;> cases c.ph <;> decide

theorem selected_byteRaNak {rx : Byte} :
    selected c (.byteRaNak rx) = true ↔ c.st = .registerAddress ∧ c.ph = .pre ∧ c.n.toNat ≤ rx.toNat := by
  rw [selected_iff, ← and_assoc]
  refine and_congr ?_ ?_
  · show rowKey _ c.st c.ph &&& _ = _ ↔ _
    simp only [Instr.opcode, rowMask, rowMatch]
    cases c.st <;> cases c.ph <;> decide
  · simp [rowCond, inFile]

theorem selected_byteRaLoad {rx : Byte} :
    selected c (.byteRaLoad rx) = true ↔ c.st = .registerAddress ∧ c.ph = .pre ∧ rx.toNat < c.n.toNat := by
  rw [selected_iff, ← and_assoc]
  refine and_congr ?_ ?_
  · show rowKey _ c.st c.ph &&& _ = _ ↔ _
    simp only [Instr.opcode, rowMask, rowMatch]
    cases c.st <;> cases c.ph <;> decide
  · simp [rowCond, inFile]

theorem selected_byteRaPost {rx : Byte} :
    selected c (.byteRaPost rx) = true ↔ c.st = .registerAddress ∧ c.ph = .post := by
  rw [selected_iff]
  simp only [Instr.opcode, rowMask, rowMatch, rowCond, and_true]
  cases c.st <;> cases c.ph <;> decide

theorem selected_byteMrPre {rx : Byte} :
    selected c (.byteMrPre rx) = true ↔ c.st = .masterRead ∧ c.ph = .pre := by
  rw [selected_iff]
  simp only [Instr.opcode, rowMask, rowMatch, rowCond, and_true]
  cases c.st <;> cases c.ph <;> decide

theorem selected_byteMrNak {rx : Byte} :
    selected c (.byteMrNak rx) = true ↔ c.st = .masterRead ∧ c.ph = .post ∧ nakBit rx = true := by
  rw [selected_iff, ← and_assoc]
  refine and_congr ?_ ?_
  · show rowKey _ c.st c.ph &&& _ = _ ↔ _
    simp only [Instr.opcode, rowMask, rowMatch]
    cases c.st <;> cases c.ph <;> decide
  · simp [rowCond]

theorem selected_byteMrAck {rx : Byte} :
    selected c (.byteMrAck rx) = true ↔ c.st = .masterRead ∧ c.ph = .post ∧ nakBit rx = false := by
  rw [selected_iff, ← and_assoc]
  refine and_congr ?_ ?_
  · show rowKey _ c.st c.ph &&& _ = _ ↔ _
    simp only [Instr.opcode, rowMask, rowMatch]
    cases c.st <;> cases c.ph <;> decide
  · simp [rowCond]

theorem selected_byteMwData {rx : Byte} :
    selected c (.byteMwData rx) = true ↔ c.st = .masterWrite ∧ c.ph = .pre := by
  rw [selected_iff]
  simp only [Instr.opcode, rowMask, rowMatch, rowCond, and_true]
  cases c.st <;> cases c.ph <;> decide

theorem selected_byteMwPost {rx : Byte} :
    selected c (.byteMwPost rx) = true ↔ c.st = .masterWrite ∧ c.ph = .post := by
  rw [selected_iff]
  simp only [Instr.opcode, rowMask, rowMatch, rowCond, and_true]
  cases c.st <;> cases c.ph <;> decide

theorem selected_byteIdPre {rx : Byte} :
    selected c (.byteIdPre rx) = true ↔ c.st = .idle ∧ c.ph = .pre := by
  rw [selected_iff]
  simp only [Instr.opcode, rowMask, rowMatch, rowCond, and_true]
  cases c.st <;> cases c.ph <;> decide

theorem selected_byteIdPost {rx : Byte} :
    selected c (.byteIdPost rx) = true ↔ c.st = .idle ∧ c.ph = .post := by
  rw [selected_iff]
  simp only [Instr.opcode, rowMask, rowMatch, rowCond, and_true]
  cases c.st <;> cases c.ph <;> decide

theorem selected_byteIll5 {rx : Byte} : selected c (.byteIll5 rx) = true ↔ c.st = .reserved5 := by
  rw [selected_iff]
  simp only [Instr.opcode, rowMask, rowMatch, rowCond, and_true]
  cases c.st <;> cases c.ph <;> decide

theorem selected_byteIll67 {rx : Byte} :
    selected c (.byteIll67 rx) = true ↔ c.st = .reserved6 ∨ c.st = .reserved7 := by
  rw [selected_iff]
  simp only [Instr.opcode, rowMask, rowMatch, rowCond, and_true]
  cases c.st <;> cases c.ph <;> decide

theorem selected_drainHit :
    selected c .drainHit = true ↔ c.st = .masterWrite ∧ c.dirtyPos = true ∧ c.stopPending = true := by
  rw [selected_iff]
  refine and_congr ?_ ?_
  · simp only [Instr.opcode, rowMask, rowMatch]
    cases c.st <;> cases c.ph <;> decide
  · simp [rowCond]

theorem selected_drainMiss :
    selected c .drainMiss = true ↔ c.st ≠ .masterWrite ∨ c.dirtyPos = false ∨ c.stopPending = false := by
  rw [selected_iff]
  have : rowKey Instr.drainMiss.opcode c.st c.ph &&& rowMask .drainMiss = rowMatch .drainMiss := by
    cases c.st <;> cases c.ph <;> decide
  simp [this, rowCond, or_assoc]

end Sys2Proof
end

