-- ==== Sys2Proof/Laws/Inversion.lean ====
section
/-! SUPPORT. One case analysis over every way `exec` can answer a next state, for rules of the whole machine; and what is
known of the next pointer, of a legal configuration, and of the row a BYTE decodes to. -/

namespace Sys2Proof.Machine

/-- The pointer law in numbers (R133). -/
theorem nextPtr_toNat {n : BitVec 9} {o : Byte} (h : o.toNat < n.toNat) (hn : n.toNat ≤ 256) : (nextPtr n o).toNat = (o.toNat + 1) % n.toNat := by
  have := Nat.mod_lt (o.toNat+1) (show n.toNat > 0 by omega)
  simp [nextPtr]; omega

/-- The next pointer is inside the file (R25). -/
theorem nextPtr_lt {n : BitVec 9} {o : Byte} (h : 0 < n.toNat)  : (nextPtr n o).toNat < n.toNat := by
  have := Nat.mod_lt (o.toNat+1) (show n.toNat > 0 by omega)
  simp [nextPtr]
  have := Nat.mod_le ((o.toNat+1) % n.toNat) 256
  omega

/-- A legal configuration has `1 <= N <= 256`, and `N` fits its 9 bits (R31, R202). -/
theorem configLegal_n {g : InitArgs} (h : configLegal g = true) : (BitVec.ofNat 9 g.n).toNat = g.n ∧ 1 ≤ g.n ∧ g.n ≤ 256 := by
  simp only [configLegal, Bool.and_eq_true, decide_eq_true_eq] at h
  obtain ⟨⟨⟨⟨ha, hn⟩, hn'⟩, hm⟩, hr⟩ := h
  refine ⟨by simp; omega, hn, hn'⟩

/-- The row a BYTE decodes to is the one the table selects (R79, R110). -/
theorem selected_decodeByte (c : Ctx) (rx : Byte) : selected c (decodeByte c rx) = true := by
  obtain ⟨st,ph,addr,n,d,p⟩ := c
  cases st <;> cases ph <;> simp only [decodeByte] <;> (repeat' split) <;>
   simp_all [selected_byteAmNak, selected_byteAmRd, selected_byteAmWr, selected_byteAmPost, selected_byteRaNak, selected_byteRaLoad, selected_byteRaPost, selected_byteMrPre, selected_byteMrNak, selected_byteMrAck, selected_byteMwData, selected_byteMwPost, selected_byteIdPre, selected_byteIdPost, selected_byteIll5, selected_byteIll67, addrMatch, inFile]

/-- A BYTE decodes to a BYTE row with its operand (R74, R110). -/
theorem decodeByte_fields (c : Ctx) (rx : Byte) : (decodeByte c rx).opcode = 3 ∧ (decodeByte c rx).operandA = rx ∧ (decodeByte c rx).operandB = 0 ∧ isByte (decodeByte c rx) = true := by
  obtain ⟨st,ph,addr,n,d,p⟩ := c
  cases st <;> cases ph <;> simp only [decodeByte] <;> (repeat' split) <;> exact ⟨rfl, rfl, rfl, rfl⟩

/-- Every next state `exec` can answer: to show `P` of all of them, show it of each effect where the spec enables it. -/
theorem exec_inversion (P : Instr → State → State → Prop)
  (h_init : ∀ s g, enabled s (.init g) → P (.init g) s (afterInit g s))
  (h_start : ∀ s, enabled s .start → P (.start) s (if s.sw then clearStop s else startEffect s))
  (h_scllow : ∀ s, enabled s (.scllow) → P (.scllow) s ({ s with sw := false }))
  (h_abort : ∀ s, enabled s (.abort) → P (.abort) s ({ s with st := .idle, sw := false, drv := .release }))
  (h_byteAmNak : ∀ s rx, enabled s (.byteAmNak rx) → P (.byteAmNak rx) s (endByte (raiseReject .addressMismatch s)))
  (h_byteAmRd : ∀ s rx, enabled s (.byteAmRd rx) → P (.byteAmRd rx) s (endByte (goTo .masterRead (drive .ackLow s))))
  (h_byteAmWr : ∀ s rx, enabled s (.byteAmWr rx) → P (.byteAmWr rx) s (endByte (goTo .registerAddress (setPtr 0 (drive .ackLow s)))))
  (h_byteAmPost : ∀ s rx, enabled s (.byteAmPost rx) → P (.byteAmPost rx) s (endByte (raiseReject .defensive s)))
  (h_byteRaNak : ∀ s rx, enabled s (.byteRaNak rx) → P (.byteRaNak rx) s (endByte (raiseReject .registerOutOfRange s)))
  (h_byteRaLoad : ∀ s rx, enabled s (.byteRaLoad rx) → P (.byteRaLoad rx) s (endByte (goTo .masterWrite (setPtr rx (drive .ackLow s)))))
  (h_byteRaPost : ∀ s rx, enabled s (.byteRaPost rx) → P (.byteRaPost rx) s (endByte (drive .release s)))
  (h_byteMrPre : ∀ s rx, enabled s (.byteMrPre rx) → P (.byteMrPre rx) s (endByte (drive .release s)))
  (h_byteMrNak : ∀ s rx, enabled s (.byteMrNak rx) → P (.byteMrNak rx) s (endByte (drive .release (goTo .idle (setPtr 0 s)))))
  (h_byteMrAck : ∀ s rx, enabled s (.byteMrAck rx) → (loadPtr s).toNat < s.n.toNat → P (.byteMrAck rx) s (endByte { s with off := nextPtr s.n s.off, drv := .byte (regAt s (loadPtr s)) }))
  (h_byteMwData : ∀ s rx, enabled s (.byteMwData rx) → s.off.toNat < s.n.toNat → P (.byteMwData rx) s (endByte (drive .ackLow (advancePtr (countWrite (storeMasked rx s))))))
  (h_byteMwPost : ∀ s rx, enabled s (.byteMwPost rx) → P (.byteMwPost rx) s (endByte (drive .release s)))
  (h_byteIdPre : ∀ s rx, enabled s (.byteIdPre rx) → P (.byteIdPre rx) s (endByte (goTo .idle (drive .release s))))
  (h_byteIdPost : ∀ s rx, enabled s (.byteIdPost rx) → P (.byteIdPost rx) s (endByte (goTo .idle (drive .release s))))
  (h_byteIll5 : ∀ s rx, enabled s (.byteIll5 rx) → P (.byteIll5 rx) s (endByte (raiseReject .defensive s)))
  (h_byteIll67 : ∀ s rx, enabled s (.byteIll67 rx) → P (.byteIll67 rx) s (endByte (raiseReject .defensive s)))
  (h_stop : ∀ s, enabled s (.stop) → P (.stop) s ({ s with stopPending := true }))
  (h_drainHit : ∀ s, enabled s (.drainHit) → P (.drainHit) s (drainEffect s))
  (h_drainMiss : ∀ s, enabled s (.drainMiss) → P (.drainMiss) s (giveResult (.count 0) s))
  (h_drainT : ∀ s, enabled s (.drainT) → P (.drainT) s (if s.st = .masterWrite ∧ 0 < s.dirty then { s with armed := true, result := .armed } else giveResult (.count 0) s))
  (h_drainC : ∀ s, enabled s (.drainC) → P (.drainC) s (if s.stopPending then drainEffect { s with armed := false } else giveResult (.count 0) { s with armed := false }))
  (h_ongoing : ∀ s, enabled s (.ongoing) → P (.ongoing) s (giveResult (.ongoing (ongoing s.st)) s))
  (h_hrd : ∀ s j, enabled s (.hrd j) → P (.hrd j) s (giveResult (.byte (regAt s j)) s))
  (h_hwr : ∀ s j v, enabled s (.hwr j v) → P (.hwr j v) s (storeReg j v s))
  {i : Instr} {s t : State} (h : exec i s = .next t) : P i s t := by
  cases i
  · obtain ⟨hc, rfl⟩ := exec_init_next.1 h; exact h_init _ _ hc
  · obtain ⟨hc, rfl⟩ := exec_start_next.1 h; exact h_start _ hc
  · obtain ⟨hc, rfl⟩ := exec_scllow_next.1 h; exact h_scllow _ hc
  · obtain ⟨hc, rfl⟩ := exec_abort_next.1 h; exact h_abort _ hc
  · obtain ⟨hc, rfl⟩ := exec_byteAmNak_next.1 h; exact h_byteAmNak _ _ hc
  · obtain ⟨hc, rfl⟩ := exec_byteAmRd_next.1 h; exact h_byteAmRd _ _ hc
  · obtain ⟨hc, rfl⟩ := exec_byteAmWr_next.1 h; exact h_byteAmWr _ _ hc
  · obtain ⟨hc, rfl⟩ := exec_byteAmPost_next.1 h; exact h_byteAmPost _ _ hc
  · obtain ⟨hc, rfl⟩ := exec_byteRaNak_next.1 h; exact h_byteRaNak _ _ hc
  · obtain ⟨hc, rfl⟩ := exec_byteRaLoad_next.1 h; exact h_byteRaLoad _ _ hc
  · obtain ⟨hc, rfl⟩ := exec_byteRaPost_next.1 h; exact h_byteRaPost _ _ hc
  · obtain ⟨hc, rfl⟩ := exec_byteMrPre_next.1 h; exact h_byteMrPre _ _ hc
  · obtain ⟨hc, rfl⟩ := exec_byteMrNak_next.1 h; exact h_byteMrNak _ _ hc
  · obtain ⟨⟨hc, hc'⟩, rfl⟩ := exec_byteMrAck_next.1 h; rw [advanceAndLoad_eq]; exact h_byteMrAck _ _ hc hc'
  · obtain ⟨⟨hc, hc'⟩, rfl⟩ := exec_byteMwData_next.1 h;  exact h_byteMwData _ _ hc hc'
  · obtain ⟨hc, rfl⟩ := exec_byteMwPost_next.1 h; exact h_byteMwPost _ _ hc
  · obtain ⟨hc, rfl⟩ := exec_byteIdPre_next.1 h; exact h_byteIdPre _ _ hc
  · obtain ⟨hc, rfl⟩ := exec_byteIdPost_next.1 h; exact h_byteIdPost _ _ hc
  · obtain ⟨hc, rfl⟩ := exec_byteIll5_next.1 h; exact h_byteIll5 _ _ hc
  · obtain ⟨hc, rfl⟩ := exec_byteIll67_next.1 h; exact h_byteIll67 _ _ hc
  · obtain ⟨hc, rfl⟩ := exec_stop_next.1 h; exact h_stop _ hc
  · obtain ⟨hc, rfl⟩ := exec_drainHit_next.1 h; exact h_drainHit _ hc
  · obtain ⟨hc, rfl⟩ := exec_drainMiss_next.1 h; exact h_drainMiss _ hc
  · obtain ⟨hc, rfl⟩ := exec_drainT_next.1 h; exact h_drainT _ hc
  · obtain ⟨⟨⟨h1,h2⟩,h3,h4⟩, rfl⟩ := exec_drainC_next.1 h; exact h_drainC _ ⟨h1,h2,h3,h4⟩
  · obtain ⟨hc, rfl⟩ := exec_ongoing_next.1 h; exact h_ongoing _ hc
  · obtain ⟨hc, rfl⟩ := exec_hrd_next.1 h; exact h_hrd _ _ hc
  · obtain ⟨⟨h1,h2,h3⟩, rfl⟩ := exec_hwr_next.1 h; refine h_hwr _ _ _ ⟨h1,h2,?_⟩; simp [ongoing] at h3; tauto

end Sys2Proof.Machine
end

