-- ==== Sys2Proof/Laws/Memory.lean ====
section
/-! SUPPORT. The laws of the files of bytes: what a read answers after a write, the canonical form is kept, and equal
contents are equal data. -/

namespace Sys2Proof.Machine

/-- Every index of the file is at least `lo`. -/
def Memory.from (lo : Nat) (m : Memory) : Prop := ∀ c ∈ m, lo ≤ c.1

theorem Memory.read_of_from {m : Memory} {lo i : Nat} (h : Memory.from lo m) (hi : i < lo) :
    Memory.read m i = Memory.unlisted := by
  induction m with
  | nil => rfl
  | cons c rest ih =>
    obtain ⟨j, v⟩ := c
    have hj : lo ≤ j := h (j, v) (by simp)
    have hij : i ≠ j := by omega
    simp only [Memory.read, hij, if_false]
    exact ih fun c hc => h c (by simp [hc])

theorem Memory.read_put (i j : Nat) (v : Byte) (m : Memory) (hm : Memory.read m i = Memory.unlisted) :
    Memory.read (Memory.put i v m) j = if j = i then v else Memory.read m j := by
  unfold Memory.put
  by_cases hv : v = Memory.unlisted
  · by_cases hj : j = i
    · subst hj; simp [hv, hm]
    · simp [hv, hj]
  · simp [hv, Memory.read]

theorem Memory.wf_cons {c : Host.Cell} {m : Memory} :
    Memory.wf (c :: m) ↔ Memory.from (c.1 + 1) m ∧ c.2 ≠ Memory.unlisted ∧ Memory.wf m := by
  simp only [Memory.wf, Memory.from, List.pairwise_cons, List.mem_cons, forall_eq_or_imp]
  constructor
  · rintro ⟨⟨h1, h2⟩, h3, h4⟩; exact ⟨h1, h3, h2, h4⟩
  · rintro ⟨h1, h3, h2, h4⟩; exact ⟨⟨h1, h2⟩, h3, h4⟩

theorem Memory.read_write (m : Memory) (h : Memory.wf m) (i j : Nat) (v : Byte) :
    Memory.read (Memory.write m i v) j = if j = i then v else Memory.read m j := by
  induction m with
  | nil => exact Memory.read_put i j v [] rfl
  | cons c rest ih =>
    obtain ⟨k, w⟩ := c
    obtain ⟨hfrom, -, hrest⟩ := Memory.wf_cons.1 h
    simp only [Memory.write]
    split
    · refine Memory.read_put i j v _ ?_
      refine Memory.read_of_from (lo := k) ?_ ‹i < k›
      intro c hc
      rcases List.mem_cons.1 hc with rfl | hc
      · exact le_refl _
      · have := hfrom c hc; simp only at this; omega
    · split
      · subst ‹i = k›
        have hr : Memory.read rest i = Memory.unlisted := Memory.read_of_from hfrom (by simp)
        rw [Memory.read_put i j v rest hr]
        by_cases hj : j = i
        · simp [hj]
        · simp [Memory.read, hj]
      · by_cases hj : j = k
        · subst hj
          have : j ≠ i := fun e => ‹¬ i = j› e.symm
          simp [Memory.read, this]
        · simp only [Memory.read, hj, if_false]; exact ih hrest

/-- A read at the written index gives the value written. -/
theorem Memory.read_write_same (m : Memory) (h : Memory.wf m) (i : Nat) (v : Byte) :
    Memory.read (Memory.write m i v) i = v := by simp [Memory.read_write m h]

/-- A write leaves every other index alone. -/
theorem Memory.read_write_other (m : Memory) (h : Memory.wf m) {i j : Nat} (v : Byte) (hj : j ≠ i) :
    Memory.read (Memory.write m i v) j = Memory.read m j := by simp [Memory.read_write m h, hj]

theorem Memory.mem_put {i : Nat} {v : Byte} {m : Memory} {c : Host.Cell} (h : c ∈ Memory.put i v m) :
    c = (i, v) ∨ c ∈ m := by
  unfold Memory.put at h
  split at h
  · exact .inr h
  · exact List.mem_cons.1 h

theorem Memory.wf_put {i : Nat} {v : Byte} {m : Memory} (h : Memory.wf m) (hf : Memory.from (i + 1) m) :
    Memory.wf (Memory.put i v m) := by
  unfold Memory.put
  split
  · exact h
  · exact Memory.wf_cons.2 ⟨hf, ‹_›, h⟩

theorem Memory.mem_write {m : Memory} {i : Nat} {v : Byte} {c : Host.Cell} (h : c ∈ Memory.write m i v) :
    c.1 = i ∨ c ∈ m := by
  induction m with
  | nil => rcases Memory.mem_put h with rfl | h <;> simp_all
  | cons d rest ih =>
    simp only [Memory.write] at h
    split at h
    · rcases Memory.mem_put h with rfl | h
      · exact .inl rfl
      · exact .inr h
    · split at h
      · rcases Memory.mem_put h with rfl | h
        · exact .inl rfl
        · exact .inr (List.mem_cons_of_mem _ h)
      · rcases List.mem_cons.1 h with rfl | h
        · exact .inr (by simp)
        · rcases ih h with h | h
          · exact .inl h
          · exact .inr (List.mem_cons_of_mem _ h)

/-- A write keeps the canonical form. -/
theorem Memory.wf_write {m : Memory} (h : Memory.wf m) (i : Nat) (v : Byte) : Memory.wf (Memory.write m i v) := by
  induction m with
  | nil => exact Memory.wf_put h (by simp [Memory.from])
  | cons c rest ih =>
    obtain ⟨hfrom, hne, hrest⟩ := Memory.wf_cons.1 h
    simp only [Memory.write]
    split
    · refine Memory.wf_put h fun d hd => ?_
      rcases List.mem_cons.1 hd with rfl | hd
      · exact ‹i < _›
      · have h1 := hfrom d hd; have h2 := ‹i < c.1›; omega
    · split
      · refine Memory.wf_put hrest ?_
        rw [‹i = c.1›]; exact hfrom
      · refine Memory.wf_cons.2 ⟨fun d hd => ?_, hne, ih hrest⟩
        rcases Memory.mem_write hd with hd | hd
        · simp only at *; omega
        · exact hfrom d hd

/-- A write inside a range stays inside it. -/
theorem Memory.range_write {m : Memory} {n i : Nat} (h : ∀ c ∈ m, c.1 < n) (hi : i < n) (v : Byte) :
    ∀ c ∈ Memory.write m i v, c.1 < n := by
  intro c hc
  rcases Memory.mem_write hc with h1 | h1
  · omega
  · exact h c h1

theorem Memory.from_ofBytes (i : Nat) (vs : List Byte) : Memory.from i (Memory.ofBytes i vs) := by
  induction vs generalizing i with
  | nil => simp [Memory.ofBytes, Memory.from]
  | cons v vs ih =>
    intro c hc
    rcases Memory.mem_put hc with rfl | hc
    · exact le_refl _
    · have := ih (i + 1) c hc; omega

/-- A file made from a list of bytes is in canonical form. -/
theorem Memory.wf_ofBytes (i : Nat) (vs : List Byte) : Memory.wf (Memory.ofBytes i vs) := by
  induction vs generalizing i with
  | nil => simp [Memory.ofBytes, Memory.wf]
  | cons v vs ih => exact Memory.wf_put (ih (i + 1)) (Memory.from_ofBytes (i + 1) vs)

/-- A file made from a list of bytes lists only indices of the list. -/
theorem Memory.range_ofBytes (i : Nat) (vs : List Byte) : ∀ c ∈ Memory.ofBytes i vs, c.1 < i + vs.length := by
  induction vs generalizing i with
  | nil => simp [Memory.ofBytes]
  | cons v vs ih =>
    intro c hc
    rcases Memory.mem_put hc with rfl | hc
    · simp
    · have := ih (i + 1) c hc; simp; omega

/-- A file made from a list of bytes reads as the list. -/
theorem Memory.read_ofBytes (i k : Nat) (vs : List Byte) :
    Memory.read (Memory.ofBytes i vs) (i + k) = vs.getD k Memory.unlisted := by
  induction vs generalizing i k with
  | nil => simp [Memory.ofBytes, Memory.read]
  | cons v vs ih =>
    have hr : Memory.read (Memory.ofBytes (i + 1) vs) i = Memory.unlisted :=
      Memory.read_of_from (Memory.from_ofBytes (i + 1) vs) (by omega)
    simp only [Memory.ofBytes]
    rw [Memory.read_put i (i + k) v _ hr]
    cases k with
    | zero => simp
    | succ k =>
      rw [if_neg (by omega), show i + (k + 1) = i + 1 + k by omega, ih (i + 1) k]
      simp

/-- Two files in canonical form that read the same at every index are the same data. -/
theorem Memory.ext_read {m m' : Memory} (h : Memory.wf m) (h' : Memory.wf m')
    (hr : ∀ i, Memory.read m i = Memory.read m' i) : m = m' := by
  induction m generalizing m' with
  | nil =>
    cases m' with
    | nil => rfl
    | cons c rest =>
      obtain ⟨-, hne, -⟩ := Memory.wf_cons.1 h'
      have := hr c.1
      simp only [Memory.read, if_true] at this
      exact absurd this.symm hne
  | cons c rest ih =>
    obtain ⟨hf, hne, hw⟩ := Memory.wf_cons.1 h
    cases m' with
    | nil =>
      have := hr c.1
      simp only [Memory.read, if_true] at this
      exact absurd this hne
    | cons d rest' =>
      obtain ⟨hf', hne', hw'⟩ := Memory.wf_cons.1 h'
      have low : ∀ {a b : Host.Cell} {l : Memory}, Memory.from (b.1 + 1) l → a.1 < b.1 →
          Memory.read (b :: l) a.1 = Memory.unlisted := by
        intro a b l hl hab
        simp only [Memory.read, if_neg (Nat.ne_of_lt hab)]
        exact Memory.read_of_from hl (by omega)
      rcases Nat.lt_trichotomy c.1 d.1 with hlt | heq | hgt
      · have := hr c.1
        rw [low hf' hlt] at this
        simp only [Memory.read, if_true] at this
        exact absurd this hne
      · have hv := hr c.1
        simp only [Memory.read, if_pos heq, if_true] at hv
        have hcd : c = d := Prod.ext heq hv
        subst hcd
        congr 1
        refine ih hw hw' fun i => ?_
        rcases Nat.lt_or_ge i (c.1 + 1) with hi | hi
        · rw [Memory.read_of_from hf hi, Memory.read_of_from hf' hi]
        · have := hr i
          simp only [Memory.read, if_neg (show i ≠ c.1 by omega)] at this
          exact this
      · have := hr d.1
        rw [low hf hgt] at this
        simp only [Memory.read, if_true] at this
        exact absurd this.symm hne'

end Sys2Proof.Machine
end

