-- ==== Sys2Proof/Laws/PerInstr.lean ====
section
/-! SUPPORT. The family WordFields: the event word of every operation splits into the code and the operands of R74. -/

namespace Sys2Proof.Laws

theorem wordOp_eventWord (op : BitVec 4) (a b : Byte) : wordOp (eventWord op a b) = op := by
  unfold wordOp eventWord
  apply BitVec.eq_of_getLsbD_eq
  intro k hk
  simp only [BitVec.getLsbD_extractLsb', BitVec.getLsbD_append]
  simp [hk, show ¬ 16 + k < 8 by omega, show ¬ 16 + k - 8 < 8 by omega, show 16 + k - 8 - 8 = k by omega]

theorem wordA_eventWord (op : BitVec 4) (a b : Byte) : wordA (eventWord op a b) = a := by
  unfold wordA eventWord
  apply BitVec.eq_of_getLsbD_eq
  intro k hk
  simp only [BitVec.getLsbD_extractLsb', BitVec.getLsbD_append]
  simp [hk, show ¬ 8 + k < 8 by omega]

theorem wordB_eventWord (op : BitVec 4) (a b : Byte) : wordB (eventWord op a b) = b := by
  unfold wordB eventWord
  apply BitVec.eq_of_getLsbD_eq
  intro k hk
  simp only [BitVec.getLsbD_extractLsb', BitVec.getLsbD_append]
  simp [hk]

/-- Every event word is the word of its three fields. -/
theorem eventWord_fields (w : EventWord) : eventWord (wordOp w) (wordA w) (wordB w) = w := by
  unfold wordOp wordA wordB eventWord
  apply BitVec.eq_of_getLsbD_eq
  intro k hk
  simp only [BitVec.getLsbD_append, BitVec.getLsbD_extractLsb']
  by_cases h1 : k < 8
  · simp [h1]
  · by_cases h2 : k - 8 < 8
    · simp [h1, h2, show 8 + (k - 8) = k by omega]
    · simp [h1, h2, show k - 8 - 8 < 4 by omega, show 16 + (k - 8 - 8) = k by omega]

/-- The family: the fields of the operation's event word are its code and its operands (R74). -/
def WordFields.Statement (i : Instr) : Prop :=
  wordOp (encode i) = i.opcode ∧ wordA (encode i) = i.operandA ∧ wordB (encode i) = i.operandB

theorem WordFields.all (i : Instr) : WordFields.Statement i :=
  ⟨wordOp_eventWord _ _ _, wordA_eventWord _ _ _, wordB_eventWord _ _ _⟩

theorem WordFields.init (g : InitArgs) : WordFields.Statement (.init g) := WordFields.all _
theorem WordFields.start : WordFields.Statement (.start) := WordFields.all _
theorem WordFields.scllow : WordFields.Statement (.scllow) := WordFields.all _
theorem WordFields.abort : WordFields.Statement (.abort) := WordFields.all _
theorem WordFields.byteAmNak (rx : Byte) : WordFields.Statement (.byteAmNak rx) := WordFields.all _
theorem WordFields.byteAmRd (rx : Byte) : WordFields.Statement (.byteAmRd rx) := WordFields.all _
theorem WordFields.byteAmWr (rx : Byte) : WordFields.Statement (.byteAmWr rx) := WordFields.all _
theorem WordFields.byteAmPost (rx : Byte) : WordFields.Statement (.byteAmPost rx) := WordFields.all _
theorem WordFields.byteRaNak (rx : Byte) : WordFields.Statement (.byteRaNak rx) := WordFields.all _
theorem WordFields.byteRaLoad (rx : Byte) : WordFields.Statement (.byteRaLoad rx) := WordFields.all _
theorem WordFields.byteRaPost (rx : Byte) : WordFields.Statement (.byteRaPost rx) := WordFields.all _
theorem WordFields.byteMrPre (rx : Byte) : WordFields.Statement (.byteMrPre rx) := WordFields.all _
theorem WordFields.byteMrNak (rx : Byte) : WordFields.Statement (.byteMrNak rx) := WordFields.all _
theorem WordFields.byteMrAck (rx : Byte) : WordFields.Statement (.byteMrAck rx) := WordFields.all _
theorem WordFields.byteMwData (rx : Byte) : WordFields.Statement (.byteMwData rx) := WordFields.all _
theorem WordFields.byteMwPost (rx : Byte) : WordFields.Statement (.byteMwPost rx) := WordFields.all _
theorem WordFields.byteIdPre (rx : Byte) : WordFields.Statement (.byteIdPre rx) := WordFields.all _
theorem WordFields.byteIdPost (rx : Byte) : WordFields.Statement (.byteIdPost rx) := WordFields.all _
theorem WordFields.byteIll5 (rx : Byte) : WordFields.Statement (.byteIll5 rx) := WordFields.all _
theorem WordFields.byteIll67 (rx : Byte) : WordFields.Statement (.byteIll67 rx) := WordFields.all _
theorem WordFields.stop : WordFields.Statement (.stop) := WordFields.all _
theorem WordFields.drainHit : WordFields.Statement (.drainHit) := WordFields.all _
theorem WordFields.drainMiss : WordFields.Statement (.drainMiss) := WordFields.all _
theorem WordFields.drainT : WordFields.Statement (.drainT) := WordFields.all _
theorem WordFields.drainC : WordFields.Statement (.drainC) := WordFields.all _
theorem WordFields.ongoing : WordFields.Statement (.ongoing) := WordFields.all _
theorem WordFields.hrd (i : Byte) : WordFields.Statement (.hrd i) := WordFields.all _
theorem WordFields.hwr (i v : Byte) : WordFields.Statement (.hwr i v) := WordFields.all _

end Sys2Proof.Laws
end

