-- ==== Sys2Proof/Laws/State.lean ====
section
/-! SUPPORT. One lemma per field per update of Machine/Ops.lean: what each update leaves in each field. -/

namespace Sys2Proof.Machine

variable (s : State)

/-! ### `drive` -/

@[simp] theorem drive_params (d : Drive) : (drive d s).params = s.params := rfl
@[simp] theorem drive_inited (d : Drive) : (drive d s).inited = s.inited := rfl
@[simp] theorem drive_addr (d : Drive) : (drive d s).addr = s.addr := rfl
@[simp] theorem drive_n (d : Drive) : (drive d s).n = s.n := rfl
@[simp] theorem drive_maskMode (d : Drive) : (drive d s).maskMode = s.maskMode := rfl
@[simp] theorem drive_gmask (d : Drive) : (drive d s).gmask = s.gmask := rfl
@[simp] theorem drive_mask (d : Drive) : (drive d s).mask = s.mask := rfl
@[simp] theorem drive_reg (d : Drive) : (drive d s).reg = s.reg := rfl
@[simp] theorem drive_st (d : Drive) : (drive d s).st = s.st := rfl
@[simp] theorem drive_ph (d : Drive) : (drive d s).ph = s.ph := rfl
@[simp] theorem drive_off (d : Drive) : (drive d s).off = s.off := rfl
@[simp] theorem drive_dirty (d : Drive) : (drive d s).dirty = s.dirty := rfl
@[simp] theorem drive_sw (d : Drive) : (drive d s).sw = s.sw := rfl
@[simp] theorem drive_drv (d : Drive) : (drive d s).drv = d := rfl
@[simp] theorem drive_stopPending (d : Drive) : (drive d s).stopPending = s.stopPending := rfl
@[simp] theorem drive_scl (d : Drive) : (drive d s).scl = s.scl := rfl
@[simp] theorem drive_startWaits (d : Drive) : (drive d s).startWaits = s.startWaits := rfl
@[simp] theorem drive_byteWaits (d : Drive) : (drive d s).byteWaits = s.byteWaits := rfl
@[simp] theorem drive_armed (d : Drive) : (drive d s).armed = s.armed := rfl
@[simp] theorem drive_result (d : Drive) : (drive d s).result = s.result := rfl
@[simp] theorem drive_trace (d : Drive) : (drive d s).trace = s.trace := rfl

/-! ### `goTo` -/

@[simp] theorem goTo_params (x : ProtocolState) : (goTo x s).params = s.params := rfl
@[simp] theorem goTo_inited (x : ProtocolState) : (goTo x s).inited = s.inited := rfl
@[simp] theorem goTo_addr (x : ProtocolState) : (goTo x s).addr = s.addr := rfl
@[simp] theorem goTo_n (x : ProtocolState) : (goTo x s).n = s.n := rfl
@[simp] theorem goTo_maskMode (x : ProtocolState) : (goTo x s).maskMode = s.maskMode := rfl
@[simp] theorem goTo_gmask (x : ProtocolState) : (goTo x s).gmask = s.gmask := rfl
@[simp] theorem goTo_mask (x : ProtocolState) : (goTo x s).mask = s.mask := rfl
@[simp] theorem goTo_reg (x : ProtocolState) : (goTo x s).reg = s.reg := rfl
@[simp] theorem goTo_st (x : ProtocolState) : (goTo x s).st = x := rfl
@[simp] theorem goTo_ph (x : ProtocolState) : (goTo x s).ph = s.ph := rfl
@[simp] theorem goTo_off (x : ProtocolState) : (goTo x s).off = s.off := rfl
@[simp] theorem goTo_dirty (x : ProtocolState) : (goTo x s).dirty = s.dirty := rfl
@[simp] theorem goTo_sw (x : ProtocolState) : (goTo x s).sw = s.sw := rfl
@[simp] theorem goTo_drv (x : ProtocolState) : (goTo x s).drv = s.drv := rfl
@[simp] theorem goTo_stopPending (x : ProtocolState) : (goTo x s).stopPending = s.stopPending := rfl
@[simp] theorem goTo_scl (x : ProtocolState) : (goTo x s).scl = s.scl := rfl
@[simp] theorem goTo_startWaits (x : ProtocolState) : (goTo x s).startWaits = s.startWaits := rfl
@[simp] theorem goTo_byteWaits (x : ProtocolState) : (goTo x s).byteWaits = s.byteWaits := rfl
@[simp] theorem goTo_armed (x : ProtocolState) : (goTo x s).armed = s.armed := rfl
@[simp] theorem goTo_result (x : ProtocolState) : (goTo x s).result = s.result := rfl
@[simp] theorem goTo_trace (x : ProtocolState) : (goTo x s).trace = s.trace := rfl

/-! ### `setPtr` -/

@[simp] theorem setPtr_params (v : Byte) : (setPtr v s).params = s.params := rfl
@[simp] theorem setPtr_inited (v : Byte) : (setPtr v s).inited = s.inited := rfl
@[simp] theorem setPtr_addr (v : Byte) : (setPtr v s).addr = s.addr := rfl
@[simp] theorem setPtr_n (v : Byte) : (setPtr v s).n = s.n := rfl
@[simp] theorem setPtr_maskMode (v : Byte) : (setPtr v s).maskMode = s.maskMode := rfl
@[simp] theorem setPtr_gmask (v : Byte) : (setPtr v s).gmask = s.gmask := rfl
@[simp] theorem setPtr_mask (v : Byte) : (setPtr v s).mask = s.mask := rfl
@[simp] theorem setPtr_reg (v : Byte) : (setPtr v s).reg = s.reg := rfl
@[simp] theorem setPtr_st (v : Byte) : (setPtr v s).st = s.st := rfl
@[simp] theorem setPtr_ph (v : Byte) : (setPtr v s).ph = s.ph := rfl
@[simp] theorem setPtr_off (v : Byte) : (setPtr v s).off = v := rfl
@[simp] theorem setPtr_dirty (v : Byte) : (setPtr v s).dirty = s.dirty := rfl
@[simp] theorem setPtr_sw (v : Byte) : (setPtr v s).sw = s.sw := rfl
@[simp] theorem setPtr_drv (v : Byte) : (setPtr v s).drv = s.drv := rfl
@[simp] theorem setPtr_stopPending (v : Byte) : (setPtr v s).stopPending = s.stopPending := rfl
@[simp] theorem setPtr_scl (v : Byte) : (setPtr v s).scl = s.scl := rfl
@[simp] theorem setPtr_startWaits (v : Byte) : (setPtr v s).startWaits = s.startWaits := rfl
@[simp] theorem setPtr_byteWaits (v : Byte) : (setPtr v s).byteWaits = s.byteWaits := rfl
@[simp] theorem setPtr_armed (v : Byte) : (setPtr v s).armed = s.armed := rfl
@[simp] theorem setPtr_result (v : Byte) : (setPtr v s).result = s.result := rfl
@[simp] theorem setPtr_trace (v : Byte) : (setPtr v s).trace = s.trace := rfl

/-! ### `advancePtr` -/

@[simp] theorem advancePtr_params : (advancePtr s).params = s.params := rfl
@[simp] theorem advancePtr_inited : (advancePtr s).inited = s.inited := rfl
@[simp] theorem advancePtr_addr : (advancePtr s).addr = s.addr := rfl
@[simp] theorem advancePtr_n : (advancePtr s).n = s.n := rfl
@[simp] theorem advancePtr_maskMode : (advancePtr s).maskMode = s.maskMode := rfl
@[simp] theorem advancePtr_gmask : (advancePtr s).gmask = s.gmask := rfl
@[simp] theorem advancePtr_mask : (advancePtr s).mask = s.mask := rfl
@[simp] theorem advancePtr_reg : (advancePtr s).reg = s.reg := rfl
@[simp] theorem advancePtr_st : (advancePtr s).st = s.st := rfl
@[simp] theorem advancePtr_ph : (advancePtr s).ph = s.ph := rfl
@[simp] theorem advancePtr_off : (advancePtr s).off = nextPtr s.n s.off := rfl
@[simp] theorem advancePtr_dirty : (advancePtr s).dirty = s.dirty := rfl
@[simp] theorem advancePtr_sw : (advancePtr s).sw = s.sw := rfl
@[simp] theorem advancePtr_drv : (advancePtr s).drv = s.drv := rfl
@[simp] theorem advancePtr_stopPending : (advancePtr s).stopPending = s.stopPending := rfl
@[simp] theorem advancePtr_scl : (advancePtr s).scl = s.scl := rfl
@[simp] theorem advancePtr_startWaits : (advancePtr s).startWaits = s.startWaits := rfl
@[simp] theorem advancePtr_byteWaits : (advancePtr s).byteWaits = s.byteWaits := rfl
@[simp] theorem advancePtr_armed : (advancePtr s).armed = s.armed := rfl
@[simp] theorem advancePtr_result : (advancePtr s).result = s.result := rfl
@[simp] theorem advancePtr_trace : (advancePtr s).trace = s.trace := rfl

/-! ### `storeReg` -/

@[simp] theorem storeReg_params (i v : Byte) : (storeReg i v s).params = s.params := rfl
@[simp] theorem storeReg_inited (i v : Byte) : (storeReg i v s).inited = s.inited := rfl
@[simp] theorem storeReg_addr (i v : Byte) : (storeReg i v s).addr = s.addr := rfl
@[simp] theorem storeReg_n (i v : Byte) : (storeReg i v s).n = s.n := rfl
@[simp] theorem storeReg_maskMode (i v : Byte) : (storeReg i v s).maskMode = s.maskMode := rfl
@[simp] theorem storeReg_gmask (i v : Byte) : (storeReg i v s).gmask = s.gmask := rfl
@[simp] theorem storeReg_mask (i v : Byte) : (storeReg i v s).mask = s.mask := rfl
@[simp] theorem storeReg_reg (i v : Byte) : (storeReg i v s).reg = Memory.write s.reg i.toNat v := rfl
@[simp] theorem storeReg_st (i v : Byte) : (storeReg i v s).st = s.st := rfl
@[simp] theorem storeReg_ph (i v : Byte) : (storeReg i v s).ph = s.ph := rfl
@[simp] theorem storeReg_off (i v : Byte) : (storeReg i v s).off = s.off := rfl
@[simp] theorem storeReg_dirty (i v : Byte) : (storeReg i v s).dirty = s.dirty := rfl
@[simp] theorem storeReg_sw (i v : Byte) : (storeReg i v s).sw = s.sw := rfl
@[simp] theorem storeReg_drv (i v : Byte) : (storeReg i v s).drv = s.drv := rfl
@[simp] theorem storeReg_stopPending (i v : Byte) : (storeReg i v s).stopPending = s.stopPending := rfl
@[simp] theorem storeReg_scl (i v : Byte) : (storeReg i v s).scl = s.scl := rfl
@[simp] theorem storeReg_startWaits (i v : Byte) : (storeReg i v s).startWaits = s.startWaits := rfl
@[simp] theorem storeReg_byteWaits (i v : Byte) : (storeReg i v s).byteWaits = s.byteWaits := rfl
@[simp] theorem storeReg_armed (i v : Byte) : (storeReg i v s).armed = s.armed := rfl
@[simp] theorem storeReg_result (i v : Byte) : (storeReg i v s).result = s.result := rfl
@[simp] theorem storeReg_trace (i v : Byte) : (storeReg i v s).trace = s.trace := rfl

/-! ### `storeMasked` -/

@[simp] theorem storeMasked_params (v : Byte) : (storeMasked v s).params = s.params := rfl
@[simp] theorem storeMasked_inited (v : Byte) : (storeMasked v s).inited = s.inited := rfl
@[simp] theorem storeMasked_addr (v : Byte) : (storeMasked v s).addr = s.addr := rfl
@[simp] theorem storeMasked_n (v : Byte) : (storeMasked v s).n = s.n := rfl
@[simp] theorem storeMasked_maskMode (v : Byte) : (storeMasked v s).maskMode = s.maskMode := rfl
@[simp] theorem storeMasked_gmask (v : Byte) : (storeMasked v s).gmask = s.gmask := rfl
@[simp] theorem storeMasked_mask (v : Byte) : (storeMasked v s).mask = s.mask := rfl
@[simp] theorem storeMasked_reg (v : Byte) : (storeMasked v s).reg = Memory.write s.reg s.off.toNat (maskedByte (regAt s s.off) v (wmask s s.off)) := rfl
@[simp] theorem storeMasked_st (v : Byte) : (storeMasked v s).st = s.st := rfl
@[simp] theorem storeMasked_ph (v : Byte) : (storeMasked v s).ph = s.ph := rfl
@[simp] theorem storeMasked_off (v : Byte) : (storeMasked v s).off = s.off := rfl
@[simp] theorem storeMasked_dirty (v : Byte) : (storeMasked v s).dirty = s.dirty := rfl
@[simp] theorem storeMasked_sw (v : Byte) : (storeMasked v s).sw = s.sw := rfl
@[simp] theorem storeMasked_drv (v : Byte) : (storeMasked v s).drv = s.drv := rfl
@[simp] theorem storeMasked_stopPending (v : Byte) : (storeMasked v s).stopPending = s.stopPending := rfl
@[simp] theorem storeMasked_scl (v : Byte) : (storeMasked v s).scl = s.scl := rfl
@[simp] theorem storeMasked_startWaits (v : Byte) : (storeMasked v s).startWaits = s.startWaits := rfl
@[simp] theorem storeMasked_byteWaits (v : Byte) : (storeMasked v s).byteWaits = s.byteWaits := rfl
@[simp] theorem storeMasked_armed (v : Byte) : (storeMasked v s).armed = s.armed := rfl
@[simp] theorem storeMasked_result (v : Byte) : (storeMasked v s).result = s.result := rfl
@[simp] theorem storeMasked_trace (v : Byte) : (storeMasked v s).trace = s.trace := rfl

/-! ### `countWrite` -/

@[simp] theorem countWrite_params : (countWrite s).params = s.params := rfl
@[simp] theorem countWrite_inited : (countWrite s).inited = s.inited := rfl
@[simp] theorem countWrite_addr : (countWrite s).addr = s.addr := rfl
@[simp] theorem countWrite_n : (countWrite s).n = s.n := rfl
@[simp] theorem countWrite_maskMode : (countWrite s).maskMode = s.maskMode := rfl
@[simp] theorem countWrite_gmask : (countWrite s).gmask = s.gmask := rfl
@[simp] theorem countWrite_mask : (countWrite s).mask = s.mask := rfl
@[simp] theorem countWrite_reg : (countWrite s).reg = s.reg := rfl
@[simp] theorem countWrite_st : (countWrite s).st = s.st := rfl
@[simp] theorem countWrite_ph : (countWrite s).ph = s.ph := rfl
@[simp] theorem countWrite_off : (countWrite s).off = s.off := rfl
@[simp] theorem countWrite_dirty : (countWrite s).dirty = nextDirty s.params s.dirty := rfl
@[simp] theorem countWrite_sw : (countWrite s).sw = s.sw := rfl
@[simp] theorem countWrite_drv : (countWrite s).drv = s.drv := rfl
@[simp] theorem countWrite_stopPending : (countWrite s).stopPending = s.stopPending := rfl
@[simp] theorem countWrite_scl : (countWrite s).scl = s.scl := rfl
@[simp] theorem countWrite_startWaits : (countWrite s).startWaits = s.startWaits := rfl
@[simp] theorem countWrite_byteWaits : (countWrite s).byteWaits = s.byteWaits := rfl
@[simp] theorem countWrite_armed : (countWrite s).armed = s.armed := rfl
@[simp] theorem countWrite_result : (countWrite s).result = s.result := rfl
@[simp] theorem countWrite_trace : (countWrite s).trace = s.trace := rfl

/-! ### `endByte` -/

@[simp] theorem endByte_params : (endByte s).params = s.params := rfl
@[simp] theorem endByte_inited : (endByte s).inited = s.inited := rfl
@[simp] theorem endByte_addr : (endByte s).addr = s.addr := rfl
@[simp] theorem endByte_n : (endByte s).n = s.n := rfl
@[simp] theorem endByte_maskMode : (endByte s).maskMode = s.maskMode := rfl
@[simp] theorem endByte_gmask : (endByte s).gmask = s.gmask := rfl
@[simp] theorem endByte_mask : (endByte s).mask = s.mask := rfl
@[simp] theorem endByte_reg : (endByte s).reg = s.reg := rfl
@[simp] theorem endByte_st : (endByte s).st = s.st := rfl
@[simp] theorem endByte_ph : (endByte s).ph = flipPhase s.ph := rfl
@[simp] theorem endByte_off : (endByte s).off = s.off := rfl
@[simp] theorem endByte_dirty : (endByte s).dirty = s.dirty := rfl
@[simp] theorem endByte_sw : (endByte s).sw = s.sw := rfl
@[simp] theorem endByte_drv : (endByte s).drv = s.drv := rfl
@[simp] theorem endByte_stopPending : (endByte s).stopPending = s.stopPending := rfl
@[simp] theorem endByte_scl : (endByte s).scl = s.scl := rfl
@[simp] theorem endByte_startWaits : (endByte s).startWaits = s.startWaits := rfl
@[simp] theorem endByte_byteWaits : (endByte s).byteWaits = s.byteWaits := rfl
@[simp] theorem endByte_armed : (endByte s).armed = s.armed := rfl
@[simp] theorem endByte_result : (endByte s).result = s.result := rfl
@[simp] theorem endByte_trace : (endByte s).trace = s.trace := rfl

/-! ### `clearStop` -/

@[simp] theorem clearStop_params : (clearStop s).params = s.params := rfl
@[simp] theorem clearStop_inited : (clearStop s).inited = s.inited := rfl
@[simp] theorem clearStop_addr : (clearStop s).addr = s.addr := rfl
@[simp] theorem clearStop_n : (clearStop s).n = s.n := rfl
@[simp] theorem clearStop_maskMode : (clearStop s).maskMode = s.maskMode := rfl
@[simp] theorem clearStop_gmask : (clearStop s).gmask = s.gmask := rfl
@[simp] theorem clearStop_mask : (clearStop s).mask = s.mask := rfl
@[simp] theorem clearStop_reg : (clearStop s).reg = s.reg := rfl
@[simp] theorem clearStop_st : (clearStop s).st = s.st := rfl
@[simp] theorem clearStop_ph : (clearStop s).ph = s.ph := rfl
@[simp] theorem clearStop_off : (clearStop s).off = s.off := rfl
@[simp] theorem clearStop_dirty : (clearStop s).dirty = s.dirty := rfl
@[simp] theorem clearStop_sw : (clearStop s).sw = s.sw := rfl
@[simp] theorem clearStop_drv : (clearStop s).drv = s.drv := rfl
@[simp] theorem clearStop_stopPending : (clearStop s).stopPending = false := rfl
@[simp] theorem clearStop_scl : (clearStop s).scl = s.scl := rfl
@[simp] theorem clearStop_startWaits : (clearStop s).startWaits = s.startWaits := rfl
@[simp] theorem clearStop_byteWaits : (clearStop s).byteWaits = s.byteWaits := rfl
@[simp] theorem clearStop_armed : (clearStop s).armed = s.armed := rfl
@[simp] theorem clearStop_result : (clearStop s).result = s.result := rfl
@[simp] theorem clearStop_trace : (clearStop s).trace = s.trace := rfl

/-! ### `giveResult` -/

@[simp] theorem giveResult_params (r : HostResult) : (giveResult r s).params = s.params := rfl
@[simp] theorem giveResult_inited (r : HostResult) : (giveResult r s).inited = s.inited := rfl
@[simp] theorem giveResult_addr (r : HostResult) : (giveResult r s).addr = s.addr := rfl
@[simp] theorem giveResult_n (r : HostResult) : (giveResult r s).n = s.n := rfl
@[simp] theorem giveResult_maskMode (r : HostResult) : (giveResult r s).maskMode = s.maskMode := rfl
@[simp] theorem giveResult_gmask (r : HostResult) : (giveResult r s).gmask = s.gmask := rfl
@[simp] theorem giveResult_mask (r : HostResult) : (giveResult r s).mask = s.mask := rfl
@[simp] theorem giveResult_reg (r : HostResult) : (giveResult r s).reg = s.reg := rfl
@[simp] theorem giveResult_st (r : HostResult) : (giveResult r s).st = s.st := rfl
@[simp] theorem giveResult_ph (r : HostResult) : (giveResult r s).ph = s.ph := rfl
@[simp] theorem giveResult_off (r : HostResult) : (giveResult r s).off = s.off := rfl
@[simp] theorem giveResult_dirty (r : HostResult) : (giveResult r s).dirty = s.dirty := rfl
@[simp] theorem giveResult_sw (r : HostResult) : (giveResult r s).sw = s.sw := rfl
@[simp] theorem giveResult_drv (r : HostResult) : (giveResult r s).drv = s.drv := rfl
@[simp] theorem giveResult_stopPending (r : HostResult) : (giveResult r s).stopPending = s.stopPending := rfl
@[simp] theorem giveResult_scl (r : HostResult) : (giveResult r s).scl = s.scl := rfl
@[simp] theorem giveResult_startWaits (r : HostResult) : (giveResult r s).startWaits = s.startWaits := rfl
@[simp] theorem giveResult_byteWaits (r : HostResult) : (giveResult r s).byteWaits = s.byteWaits := rfl
@[simp] theorem giveResult_armed (r : HostResult) : (giveResult r s).armed = s.armed := rfl
@[simp] theorem giveResult_result (r : HostResult) : (giveResult r s).result = r := rfl
@[simp] theorem giveResult_trace (r : HostResult) : (giveResult r s).trace = s.trace := rfl

/-! ### `raiseReject` -/

@[simp] theorem raiseReject_params (k : Reject) : (raiseReject k s).params = s.params := rfl
@[simp] theorem raiseReject_inited (k : Reject) : (raiseReject k s).inited = s.inited := rfl
@[simp] theorem raiseReject_addr (k : Reject) : (raiseReject k s).addr = s.addr := rfl
@[simp] theorem raiseReject_n (k : Reject) : (raiseReject k s).n = s.n := rfl
@[simp] theorem raiseReject_maskMode (k : Reject) : (raiseReject k s).maskMode = s.maskMode := rfl
@[simp] theorem raiseReject_gmask (k : Reject) : (raiseReject k s).gmask = s.gmask := rfl
@[simp] theorem raiseReject_mask (k : Reject) : (raiseReject k s).mask = s.mask := rfl
@[simp] theorem raiseReject_reg (k : Reject) : (raiseReject k s).reg = s.reg := rfl
@[simp] theorem raiseReject_st (k : Reject) : (raiseReject k s).st = .idle := rfl
@[simp] theorem raiseReject_ph (k : Reject) : (raiseReject k s).ph = s.ph := rfl
@[simp] theorem raiseReject_off (k : Reject) : (raiseReject k s).off = s.off := rfl
@[simp] theorem raiseReject_dirty (k : Reject) : (raiseReject k s).dirty = s.dirty := rfl
@[simp] theorem raiseReject_sw (k : Reject) : (raiseReject k s).sw = s.sw := rfl
@[simp] theorem raiseReject_drv (k : Reject) : (raiseReject k s).drv = .release := rfl
@[simp] theorem raiseReject_stopPending (k : Reject) : (raiseReject k s).stopPending = s.stopPending := rfl
@[simp] theorem raiseReject_scl (k : Reject) : (raiseReject k s).scl = s.scl := rfl
@[simp] theorem raiseReject_startWaits (k : Reject) : (raiseReject k s).startWaits = s.startWaits := rfl
@[simp] theorem raiseReject_byteWaits (k : Reject) : (raiseReject k s).byteWaits = s.byteWaits := rfl
@[simp] theorem raiseReject_armed (k : Reject) : (raiseReject k s).armed = s.armed := rfl
@[simp] theorem raiseReject_result (k : Reject) : (raiseReject k s).result = s.result := rfl
@[simp] theorem raiseReject_trace (k : Reject) : (raiseReject k s).trace = s.trace := rfl

/-! ### `startEffect` -/

@[simp] theorem startEffect_params : (startEffect s).params = s.params := rfl
@[simp] theorem startEffect_inited : (startEffect s).inited = s.inited := rfl
@[simp] theorem startEffect_addr : (startEffect s).addr = s.addr := rfl
@[simp] theorem startEffect_n : (startEffect s).n = s.n := rfl
@[simp] theorem startEffect_maskMode : (startEffect s).maskMode = s.maskMode := rfl
@[simp] theorem startEffect_gmask : (startEffect s).gmask = s.gmask := rfl
@[simp] theorem startEffect_mask : (startEffect s).mask = s.mask := rfl
@[simp] theorem startEffect_reg : (startEffect s).reg = s.reg := rfl
@[simp] theorem startEffect_st : (startEffect s).st = .addressMatch := rfl
@[simp] theorem startEffect_ph : (startEffect s).ph = .pre := rfl
@[simp] theorem startEffect_off : (startEffect s).off = s.off := rfl
@[simp] theorem startEffect_dirty : (startEffect s).dirty = s.dirty := rfl
@[simp] theorem startEffect_sw : (startEffect s).sw = true := rfl
@[simp] theorem startEffect_drv : (startEffect s).drv = .release := rfl
@[simp] theorem startEffect_stopPending : (startEffect s).stopPending = false := rfl
@[simp] theorem startEffect_scl : (startEffect s).scl = s.scl := rfl
@[simp] theorem startEffect_startWaits : (startEffect s).startWaits = s.startWaits := rfl
@[simp] theorem startEffect_byteWaits : (startEffect s).byteWaits = s.byteWaits := rfl
@[simp] theorem startEffect_armed : (startEffect s).armed = s.armed := rfl
@[simp] theorem startEffect_result : (startEffect s).result = s.result := rfl
@[simp] theorem startEffect_trace : (startEffect s).trace = s.trace := rfl

/-! ### `drainEffect` -/

@[simp] theorem drainEffect_params : (drainEffect s).params = s.params := rfl
@[simp] theorem drainEffect_inited : (drainEffect s).inited = s.inited := rfl
@[simp] theorem drainEffect_addr : (drainEffect s).addr = s.addr := rfl
@[simp] theorem drainEffect_n : (drainEffect s).n = s.n := rfl
@[simp] theorem drainEffect_maskMode : (drainEffect s).maskMode = s.maskMode := rfl
@[simp] theorem drainEffect_gmask : (drainEffect s).gmask = s.gmask := rfl
@[simp] theorem drainEffect_mask : (drainEffect s).mask = s.mask := rfl
@[simp] theorem drainEffect_reg : (drainEffect s).reg = s.reg := rfl
@[simp] theorem drainEffect_st : (drainEffect s).st = .idle := rfl
@[simp] theorem drainEffect_ph : (drainEffect s).ph = s.ph := rfl
@[simp] theorem drainEffect_off : (drainEffect s).off = s.off := rfl
@[simp] theorem drainEffect_dirty : (drainEffect s).dirty = 0 := rfl
@[simp] theorem drainEffect_sw : (drainEffect s).sw = s.sw := rfl
@[simp] theorem drainEffect_drv : (drainEffect s).drv = s.drv := rfl
@[simp] theorem drainEffect_stopPending : (drainEffect s).stopPending = s.stopPending := rfl
@[simp] theorem drainEffect_scl : (drainEffect s).scl = s.scl := rfl
@[simp] theorem drainEffect_startWaits : (drainEffect s).startWaits = s.startWaits := rfl
@[simp] theorem drainEffect_byteWaits : (drainEffect s).byteWaits = s.byteWaits := rfl
@[simp] theorem drainEffect_armed : (drainEffect s).armed = s.armed := rfl
@[simp] theorem drainEffect_result : (drainEffect s).result = .count s.dirty := rfl
@[simp] theorem drainEffect_trace : (drainEffect s).trace = s.trace := rfl

/-! ### `loadByte` -/

@[simp] theorem loadByte_params : (loadByte s).params = s.params := rfl
@[simp] theorem loadByte_inited : (loadByte s).inited = s.inited := rfl
@[simp] theorem loadByte_addr : (loadByte s).addr = s.addr := rfl
@[simp] theorem loadByte_n : (loadByte s).n = s.n := rfl
@[simp] theorem loadByte_maskMode : (loadByte s).maskMode = s.maskMode := rfl
@[simp] theorem loadByte_gmask : (loadByte s).gmask = s.gmask := rfl
@[simp] theorem loadByte_mask : (loadByte s).mask = s.mask := rfl
@[simp] theorem loadByte_reg : (loadByte s).reg = s.reg := rfl
@[simp] theorem loadByte_st : (loadByte s).st = s.st := rfl
@[simp] theorem loadByte_ph : (loadByte s).ph = s.ph := rfl
@[simp] theorem loadByte_off : (loadByte s).off = s.off := rfl
@[simp] theorem loadByte_dirty : (loadByte s).dirty = s.dirty := rfl
@[simp] theorem loadByte_sw : (loadByte s).sw = s.sw := rfl
@[simp] theorem loadByte_drv : (loadByte s).drv = .byte (regAt s s.off) := rfl
@[simp] theorem loadByte_stopPending : (loadByte s).stopPending = s.stopPending := rfl
@[simp] theorem loadByte_scl : (loadByte s).scl = s.scl := rfl
@[simp] theorem loadByte_startWaits : (loadByte s).startWaits = s.startWaits := rfl
@[simp] theorem loadByte_byteWaits : (loadByte s).byteWaits = s.byteWaits := rfl
@[simp] theorem loadByte_armed : (loadByte s).armed = s.armed := rfl
@[simp] theorem loadByte_result : (loadByte s).result = s.result := rfl
@[simp] theorem loadByte_trace : (loadByte s).trace = s.trace := rfl

/-! ### `raiseNotifications` -/

@[simp] theorem raiseNotifications_params (r : Raised) : (raiseNotifications r s).params = s.params := rfl
@[simp] theorem raiseNotifications_inited (r : Raised) : (raiseNotifications r s).inited = s.inited := rfl
@[simp] theorem raiseNotifications_addr (r : Raised) : (raiseNotifications r s).addr = s.addr := rfl
@[simp] theorem raiseNotifications_n (r : Raised) : (raiseNotifications r s).n = s.n := rfl
@[simp] theorem raiseNotifications_maskMode (r : Raised) : (raiseNotifications r s).maskMode = s.maskMode := rfl
@[simp] theorem raiseNotifications_gmask (r : Raised) : (raiseNotifications r s).gmask = s.gmask := rfl
@[simp] theorem raiseNotifications_mask (r : Raised) : (raiseNotifications r s).mask = s.mask := rfl
@[simp] theorem raiseNotifications_reg (r : Raised) : (raiseNotifications r s).reg = s.reg := rfl
@[simp] theorem raiseNotifications_st (r : Raised) : (raiseNotifications r s).st = s.st := rfl
@[simp] theorem raiseNotifications_ph (r : Raised) : (raiseNotifications r s).ph = s.ph := rfl
@[simp] theorem raiseNotifications_off (r : Raised) : (raiseNotifications r s).off = s.off := rfl
@[simp] theorem raiseNotifications_dirty (r : Raised) : (raiseNotifications r s).dirty = s.dirty := rfl
@[simp] theorem raiseNotifications_sw (r : Raised) : (raiseNotifications r s).sw = s.sw := rfl
@[simp] theorem raiseNotifications_drv (r : Raised) : (raiseNotifications r s).drv = s.drv := rfl
@[simp] theorem raiseNotifications_stopPending (r : Raised) : (raiseNotifications r s).stopPending = (s.stopPending && !r.start) := rfl
@[simp] theorem raiseNotifications_scl (r : Raised) : (raiseNotifications r s).scl = s.scl := rfl
@[simp] theorem raiseNotifications_startWaits (r : Raised) : (raiseNotifications r s).startWaits = (s.startWaits || r.start) := rfl
@[simp] theorem raiseNotifications_byteWaits (r : Raised) : (raiseNotifications r s).byteWaits = if s.sw then s.byteWaits else s.byteWaits.or r.byte := rfl
@[simp] theorem raiseNotifications_armed (r : Raised) : (raiseNotifications r s).armed = s.armed := rfl
@[simp] theorem raiseNotifications_result (r : Raised) : (raiseNotifications r s).result = s.result := rfl
@[simp] theorem raiseNotifications_trace (r : Raised) : (raiseNotifications r s).trace = s.trace := rfl

/-! ### `afterInit` -/

@[simp] theorem afterInit_params (g : InitArgs) : (afterInit g s).params = s.params := rfl
@[simp] theorem afterInit_inited (g : InitArgs) : (afterInit g s).inited = true := rfl
@[simp] theorem afterInit_addr (g : InitArgs) : (afterInit g s).addr = BitVec.ofNat 7 g.addr := rfl
@[simp] theorem afterInit_n (g : InitArgs) : (afterInit g s).n = BitVec.ofNat 9 g.n := rfl
@[simp] theorem afterInit_maskMode (g : InitArgs) : (afterInit g s).maskMode = modeOf g := rfl
@[simp] theorem afterInit_gmask (g : InitArgs) : (afterInit g s).gmask = globalByte g := rfl
@[simp] theorem afterInit_mask (g : InitArgs) : (afterInit g s).mask = Memory.ofBytes 0 (maskBytes g) := rfl
@[simp] theorem afterInit_reg (g : InitArgs) : (afterInit g s).reg = Memory.ofBytes 0 (g.reg.take g.n) := rfl
@[simp] theorem afterInit_st (g : InitArgs) : (afterInit g s).st = .idle := rfl
@[simp] theorem afterInit_ph (g : InitArgs) : (afterInit g s).ph = .pre := rfl
@[simp] theorem afterInit_off (g : InitArgs) : (afterInit g s).off = 0 := rfl
@[simp] theorem afterInit_dirty (g : InitArgs) : (afterInit g s).dirty = 0 := rfl
@[simp] theorem afterInit_sw (g : InitArgs) : (afterInit g s).sw = false := rfl
@[simp] theorem afterInit_drv (g : InitArgs) : (afterInit g s).drv = .release := rfl
@[simp] theorem afterInit_stopPending (g : InitArgs) : (afterInit g s).stopPending = false := rfl
@[simp] theorem afterInit_scl (g : InitArgs) : (afterInit g s).scl = s.scl := rfl
@[simp] theorem afterInit_startWaits (g : InitArgs) : (afterInit g s).startWaits = false := rfl
@[simp] theorem afterInit_byteWaits (g : InitArgs) : (afterInit g s).byteWaits = none := rfl
@[simp] theorem afterInit_armed (g : InitArgs) : (afterInit g s).armed = false := rfl
@[simp] theorem afterInit_result (g : InitArgs) : (afterInit g s).result = .nothing := rfl
@[simp] theorem afterInit_trace (g : InitArgs) : (afterInit g s).trace = s.trace := rfl

end Sys2Proof.Machine
end

