-- ==== Sys2Proof/Tests/Slice0.lean ====
section
/-! SUPPORT. The model's own tests. Expected results come from spec/95_test_vectors.md (the vector is named before each),
from R74's encodings and R79's keys, or by hand from a rule; none comes from the model. The second half shows, for every
statement that has hypotheses, states and operands that meet them. -/

namespace Sys2Proof.Tests

open Sys2Proof Sys2Proof.Machine

/-! ### Helpers -/

/-- The state an outcome goes on in. -/
def nextOf (o : Host.Outcome State Fault Refusal) : Option State :=
  match o with
  | .next t => some t
  | .fault _ => none
  | .refused _ => none

def faultOf (o : Host.Outcome State Fault Refusal) : Option Fault :=
  match o with
  | .next _ => none
  | .fault f => some f
  | .refused _ => none

def refusalOf (o : Host.Outcome State Fault Refusal) : Option Refusal :=
  match o with
  | .next _ => none
  | .fault _ => none
  | .refused r => some r

/-- What the vectors write of a state: `(st, ph, off, dirty, drv)`. -/
abbrev View := ProtocolState × Phase × Byte × Nat × Drive

def viewOf (s : State) : View := (s.st, s.ph, s.off, s.dirty, s.drv)

/-- The view of the state an outcome goes on in. -/
def view (o : Host.Outcome State Fault Refusal) : Option View := (nextOf o).map viewOf

def swOf (o : Host.Outcome State Fault Refusal) : Option Bool := (nextOf o).map State.sw
def stopOf (o : Host.Outcome State Fault Refusal) : Option Bool := (nextOf o).map State.stopPending
def regOf (o : Host.Outcome State Fault Refusal) (i : Byte) : Option Byte := (nextOf o).map fun t => regAt t i
def resultOf (o : Host.Outcome State Fault Refusal) : Option HostResult := (nextOf o).map State.result

/-- The state after INIT with these arguments. -/
def cfg (addr n : Nat) (mask : MaskArg) (reg : List Byte) : State :=
  afterInit { addr := addr, n := n, mask := mask, reg := reg } State.reset

/-- The vectors' configurations (95_test_vectors.md, part 2). -/
def cfgA : State := cfg 0x40 2 (.perReg [0xFF, 0xFF]) [0x00, 0x99]
def cfgB : State := cfg 0x2A 4 (.perReg [0x0F, 0xF0, 0x00, 0xFF]) [0xAA, 0xBB, 0xCC, 0xDD]
def cfgC : State := cfg 0x10 3 (.globalMask 0x3C) [0xFF, 0x00, 0x55]
/-- The configuration of the read vectors (part 2.5). -/
def cfgR : State := cfg 0x40 4 (.perReg [0xFF, 0xFF, 0xFF, 0xFF]) [0x10, 0x20, 0x30, 0x40]

/-- A state of a configuration, as the vectors write it. -/
def put (c : State) (st : ProtocolState) (ph : Phase) (off : Byte) (dirty : Nat) (drv : Drive) : State :=
  { c with st := st, ph := ph, off := off, dirty := dirty, drv := drv }

/-- An entry of a run with nothing beside its word. -/
def arrive (w : EventWord) (scl : Bool) : Arrival := { word := w, args := none, scl := scl, during := Raised.quiet }

/-! ### Ill-formed terms, one for each check of WellFormed -/

def legal : InitArgs := { addr := 127, n := 2, mask := .perReg [1, 2], reg := [3, 4] }

theorem test_wf_legal : (Instr.init legal).wellFormed = true := by decide
theorem test_wf_addr : (Instr.init { legal with addr := 128 }).wellFormed = false := by decide
theorem test_wf_n_zero : (Instr.init { legal with n := 0 }).wellFormed = false := by decide
theorem test_wf_n_257 :
    (Instr.init { addr := 0, n := 257, mask := .globalMask 0, reg := List.replicate 257 0 }).wellFormed = false := by
  decide
theorem test_wf_masks_short : (Instr.init { legal with mask := .perReg [1] }).wellFormed = false := by decide
theorem test_wf_reg_short : (Instr.init { legal with reg := [3] }).wellFormed = false := by decide
theorem test_wf_mismatch_of_address_zero : (Instr.byteAmNak 0x01).wellFormed = false := by decide
theorem test_wf_read_with_write_bit : (Instr.byteAmRd 0x80).wellFormed = false := by decide
theorem test_wf_write_with_read_bit : (Instr.byteAmWr 0x81).wellFormed = false := by decide
theorem test_wf_nak_with_ack_bit : (Instr.byteMrNak 0xFE).wellFormed = false := by decide
theorem test_wf_ack_with_nak_bit : (Instr.byteMrAck 0x01).wellFormed = false := by decide

/-! ### Decoding: words written out from R74, rows from R79 -/

/-- A context: `ADDR = 0x40`, `N = 2`, nothing pending. -/
def ctx (st : ProtocolState) (ph : Phase) : Ctx :=
  { st := st, ph := ph, addr := 0x40, n := 2, dirtyPos := false, stopPending := false }

/-- A write with `dirty > 0` and a stop seen. -/
def ctxHit : Ctx := { ctx .masterWrite .pre with dirtyPos := true, stopPending := true }

theorem test_decode_init : decode (ctx .idle .pre) 0x00000 (some legal) = .instr (.init legal) := by decide
theorem test_decode_start : decode (ctx .masterRead .post) 0x10000 none = .instr .start := by decide
theorem test_decode_scllow : decode (ctx .addressMatch .pre) 0x20000 none = .instr .scllow := by decide
theorem test_decode_abort : decode (ctx .addressMatch .pre) 0x90000 none = .instr .abort := by decide
theorem test_decode_byteAmNak : decode (ctx .addressMatch .pre) 0x34200 none = .instr (.byteAmNak 0x42) := by decide
theorem test_decode_byteAmRd : decode (ctx .addressMatch .pre) 0x38100 none = .instr (.byteAmRd 0x81) := by decide
theorem test_decode_byteAmRd_general : decode (ctx .addressMatch .pre) 0x30100 none = .instr (.byteAmRd 0x01) := by
  decide
theorem test_decode_byteAmWr : decode (ctx .addressMatch .pre) 0x38000 none = .instr (.byteAmWr 0x80) := by decide
theorem test_decode_byteAmPost : decode (ctx .addressMatch .post) 0x38000 none = .instr (.byteAmPost 0x80) := by decide
theorem test_decode_byteRaNak : decode (ctx .registerAddress .pre) 0x30200 none = .instr (.byteRaNak 0x02) := by decide
theorem test_decode_byteRaLoad : decode (ctx .registerAddress .pre) 0x30100 none = .instr (.byteRaLoad 0x01) := by decide
theorem test_decode_byteRaPost : decode (ctx .registerAddress .post) 0x30000 none = .instr (.byteRaPost 0x00) := by
  decide
theorem test_decode_byteMrPre : decode (ctx .masterRead .pre) 0x3C100 none = .instr (.byteMrPre 0xC1) := by decide
theorem test_decode_byteMrNak : decode (ctx .masterRead .post) 0x30100 none = .instr (.byteMrNak 0x01) := by decide
theorem test_decode_byteMrAck : decode (ctx .masterRead .post) 0x3FE00 none = .instr (.byteMrAck 0xFE) := by decide
theorem test_decode_byteMwData : decode (ctx .masterWrite .pre) 0x39900 none = .instr (.byteMwData 0x99) := by decide
theorem test_decode_byteMwPost : decode (ctx .masterWrite .post) 0x30000 none = .instr (.byteMwPost 0x00) := by decide
theorem test_decode_byteIdPre : decode (ctx .idle .pre) 0x38000 none = .instr (.byteIdPre 0x80) := by decide
theorem test_decode_byteIdPost : decode (ctx .idle .post) 0x30000 none = .instr (.byteIdPost 0x00) := by decide
theorem test_decode_byteIll5 : decode (ctx .reserved5 .post) 0x37700 none = .instr (.byteIll5 0x77) := by decide
theorem test_decode_byteIll67 :
    decode (ctx .reserved6 .pre) 0x37700 none = .instr (.byteIll67 0x77) ∧
    decode (ctx .reserved7 .post) 0x37700 none = .instr (.byteIll67 0x77) := by decide
theorem test_decode_stop : decode (ctx .idle .pre) 0x40000 none = .instr .stop := by decide
theorem test_decode_drainHit : decode ctxHit 0x50000 none = .instr .drainHit := by decide
theorem test_decode_drainMiss :
    decode { ctxHit with dirtyPos := false } 0x50000 none = .instr .drainMiss ∧
    decode { ctxHit with st := .masterRead } 0x50000 none = .instr .drainMiss := by decide
theorem test_decode_drainT : decode ctxHit 0x50100 none = .instr .drainT := by decide
theorem test_decode_drainC : decode (ctx .idle .pre) 0x50200 none = .instr .drainC := by decide
theorem test_decode_ongoing : decode (ctx .idle .pre) 0x60000 none = .instr .ongoing := by decide
theorem test_decode_hrd : decode (ctx .idle .pre) 0x70100 none = .instr (.hrd 0x01) := by decide
theorem test_decode_hwr : decode (ctx .idle .pre) 0x8015A none = .instr (.hwr 0x01 0x5A) := by decide

theorem test_decode_refusals :
    decode (ctx .idle .pre) 0xA0000 none = .illFormed .reservedOpcode ∧
    decode (ctx .idle .pre) 0xFFFFF none = .illFormed .reservedOpcode ∧
    decode (ctx .idle .pre) 0x50300 none = .illFormed .drainForm ∧
    decode (ctx .idle .pre) 0x10001 none = .illFormed .unusedOperand ∧
    decode (ctx .idle .pre) 0x38001 none = .illFormed .unusedOperand ∧
    decode (ctx .idle .pre) 0x00000 none = .illFormed .missingInitArgs := by decide

/-- A.4 of the encodings: the words the encoder writes (R74). -/
theorem test_encode :
    encode (.hwr 0x01 0x5A) = 0x8015A ∧ encode (.byteMwData 0x99) = 0x39900 ∧ encode .drainC = 0x50200 := by decide

/-! ### Table words: the keys of opcode_table.json -/

/-- The key of each row, and the operation the decoder reads from it with zero operands. -/
theorem test_table_rows :
    ([0x00, 0x10, 0x20, 0x90, 0x30, 0x31, 0x32, 0x33, 0x34, 0x35, 0x36, 0x37].map (decodeTableWord 8)) =
      [some (.init tableArgs), some .start, some .scllow, some .abort, some (.byteAmWr 0), some (.byteAmPost 0),
       some (.byteRaLoad 0), some (.byteRaPost 0), some (.byteMrPre 0), some (.byteMrAck 0), some (.byteMwData 0),
       some (.byteMwPost 0)] ∧
    ([0x38, 0x39, 0x3A, 0x3C, 0x40, 0x56, 0x50, 0x60, 0x70, 0x80, 0xA0].map (decodeTableWord 8)) =
      [some (.byteIdPre 0), some (.byteIdPost 0), some (.byteIll5 0), some (.byteIll67 0), some .stop, some .drainHit,
       some .drainMiss, some .ongoing, some (.hrd 0), some (.hwr 0 0), none] := by decide

/-- With operand bits above the key, the rows that share a key are told apart (log entry 19). -/
theorem test_table_rows_with_operands :
    decodeTableWord 24 0x000130 = some (.byteAmRd 1) ∧ decodeTableWord 24 0x000230 = some (.byteAmNak 2) ∧
    decodeTableWord 24 0x000132 = some (.byteRaNak 1) ∧ decodeTableWord 24 0x000135 = some (.byteMrNak 1) ∧
    decodeTableWord 24 0x000150 = some .drainT ∧ decodeTableWord 24 0x000250 = some .drainC ∧
    decodeTableWord 24 0x5A0180 = some (.hwr 1 0x5A) := by decide

/-- The step runs the table word as the first operation after reset. -/
theorem test_table_rows_step :
    ([0x00, 0x10, 0x20, 0x90, 0x30, 0x31, 0x32, 0x33, 0x34, 0x35, 0x36, 0x37, 0x38, 0x39, 0x3A, 0x3C, 0x40, 0x56, 0x50,
      0x60, 0x70, 0x80].all fun w => (nextOf (step (State.reset.withFetchWord 8 w))).isSome) = true := by decide

theorem test_table_rows_step_with_operands :
    ([0x000130, 0x000230, 0x000132, 0x000135, 0x000150, 0x000250, 0x5A0080].all fun w =>
      (nextOf (step (State.reset.withFetchWord 24 w))).isSome) = true := by decide

/-! ### One step of each operation -/

/-- P1, row 0: the state after INIT. -/
theorem test_init :
    view (exec (.init { addr := 0x40, n := 2, mask := .perReg [0xFF, 0xFF], reg := [0x00, 0x99] }) State.reset) =
      some (.idle, .pre, 0, 0, .release) ∧
    regOf (exec (.init { addr := 0x40, n := 2, mask := .perReg [0xFF, 0xFF], reg := [0x00, 0x99] }) State.reset) 1 =
      some 0x99 := by decide

/-- V-HO-16, and R6: `DIRTY_W` is at least 1. -/
theorem test_init_refusals :
    refusalOf (exec (.init legal) cfgA) = some .secondInit ∧
    refusalOf (exec (.init legal) { State.reset with params := { Params.standard with dirtyW := 0 } }) =
      some .illegalConfig := by decide

/-- V-ST-2. -/
theorem test_start_mid_exchange :
    let o := exec .start { put cfgA .masterWrite .post 1 1 .ackLow with stopPending := true }
    view o = some (.addressMatch, .pre, 1, 1, .release) ∧ swOf o = some true ∧ stopOf o = some false := by decide

/-- V-ST-6, and R32: the flag falls at the absorbed start condition too. -/
theorem test_start_absorbed :
    let s := { put cfgA .addressMatch .pre 0 0 .release with sw := true }
    nextOf (exec .start s) = some s ∧ nextOf (exec .start { s with stopPending := true }) = some s := by decide

/-- V-ST-4. -/
theorem test_scllow :
    let s := { put cfgA .addressMatch .pre 0 0 .release with sw := true, scl := false }
    nextOf (exec .scllow s) = some { s with sw := false } := by decide

/-- V-ST-5. -/
theorem test_scllow_clock_high :
    let s := { put cfgA .addressMatch .pre 0 0 .release with sw := true, scl := true }
    faultOf (exec .scllow s) = some .startWait ∧
    refusalOf (exec .scllow { s with params := { Params.standard with startWaitAbort := true } }) = some .clockHigh ∧
    refusalOf (exec .ongoing s) = some .heldByStartWait := by decide

/-- V-ST-7. -/
theorem test_abort :
    let s := { put cfgA .addressMatch .pre 0 0 .release with
                sw := true, params := { Params.standard with startWaitAbort := true } }
    view (exec .abort s) = some (.idle, .pre, 0, 0, .release) ∧ swOf (exec .abort s) = some false := by decide

/-- V-ST-8. -/
theorem test_abort_default :
    refusalOf (exec .abort { put cfgA .addressMatch .pre 0 0 .release with sw := true }) = some .abortDisabled := by
  decide

/-- V-AM-1. -/
theorem test_byteAmNak :
    view (execByte 0x42 (put cfgA .addressMatch .pre 0 0 .release)) = some (.idle, .post, 0, 0, .release) := by decide

/-- V-AM-5: the document's own literal is not the block's address. -/
theorem test_byteAmNak_literal :
    view (execByte 0x40 (put cfgA .addressMatch .pre 0 0 .release)) = some (.idle, .post, 0, 0, .release) := by decide

/-- V-AM-4. -/
theorem test_byteAmRd :
    view (execByte 0x81 (put cfgA .addressMatch .pre 1 7 .release)) = some (.masterRead, .post, 1, 7, .ackLow) := by
  decide

/-- V-AM-7. -/
theorem test_byteAmRd_general :
    view (execByte 0x01 (put cfgA .addressMatch .pre 1 0 .release)) = some (.masterRead, .post, 1, 0, .ackLow) := by
  decide

/-- V-AM-2. -/
theorem test_byteAmWr :
    view (execByte 0x80 (put cfgA .addressMatch .pre 1 0 .release)) = some (.registerAddress, .post, 0, 0, .ackLow) := by
  decide

/-- V-AM-6. -/
theorem test_byteAmWr_general :
    view (execByte 0x00 (put cfgA .addressMatch .pre 1 0 .release)) = some (.registerAddress, .post, 0, 0, .ackLow) := by
  decide

/-- V-AM-11. -/
theorem test_byteAmPost :
    view (execByte 0x80 (put cfgA .addressMatch .post 1 0 .ackLow)) = some (.idle, .pre, 1, 0, .release) := by decide

/-- V-RA-3. -/
theorem test_byteRaNak :
    view (execByte 0x02 (put cfgA .registerAddress .pre 0 0 .release)) = some (.idle, .post, 0, 0, .release) := by decide

/-- V-RA-2. -/
theorem test_byteRaLoad :
    view (execByte 0x01 (put cfgA .registerAddress .pre 0 0 .release)) = some (.masterWrite, .post, 1, 0, .ackLow) := by
  decide

/-- V-RA-5: with `N = 256` nothing is refused. -/
theorem test_byteRaLoad_256 :
    view (execByte 0xFF (put { cfgA with n := 256 } .registerAddress .pre 0 0 .release)) =
      some (.masterWrite, .post, 255, 0, .ackLow) := by decide

/-- V-RA-7. -/
theorem test_byteRaPost :
    view (execByte 0x55 (put cfgA .registerAddress .post 0 0 .ackLow)) =
      some (.registerAddress, .pre, 0, 0, .release) := by decide

/-- V-MW-1: mask `0F`. -/
theorem test_byteMwData :
    let o := execByte 0x22 (put cfgB .masterWrite .pre 0 0 .release)
    view o = some (.masterWrite, .post, 1, 1, .ackLow) ∧ regOf o 0 = some 0xA2 ∧ regOf o 1 = some 0xBB := by decide

/-- V-MW-5: a global mask, the pointer wraps; V-MW-9: the count overflows. -/
theorem test_byteMwData_wraps :
    let o := execByte 0xAA (put cfgC .masterWrite .pre 2 0 .release)
    view o = some (.masterWrite, .post, 0, 1, .ackLow) ∧ regOf o 2 = some 0x69 ∧
    view (execByte 0x01 (put cfgA .masterWrite .pre 0 255 .release)) = some (.masterWrite, .post, 1, 0, .ackLow) := by
  decide

/-- V-MW-10. -/
theorem test_byteMwPost :
    view (execByte 0x00 (put cfgA .masterWrite .post 0 1 .ackLow)) = some (.masterWrite, .pre, 0, 1, .release) := by
  decide

/-- V-MR-2. -/
theorem test_byteMrPre :
    view (execByte 0x30 (put cfgR .masterRead .pre 2 0 (.byte 0x30))) = some (.masterRead, .post, 2, 0, .release) := by
  decide

/-- V-MR-5: only bit 0 counts. -/
theorem test_byteMrNak :
    view (execByte 0xFF (put cfgR .masterRead .post 3 0 .release)) = some (.idle, .pre, 0, 0, .release) := by decide

/-- V-MR-1. -/
theorem test_byteMrAck :
    view (execByte 0x00 (put cfgR .masterRead .post 1 0 .ackLow)) = some (.masterRead, .pre, 2, 0, .byte 0x30) := by
  decide

/-- V-MR-3 under `LOAD_THEN_ADVANCE`. -/
theorem test_byteMrAck_load_first :
    view (execByte 0x00 { put cfgR .masterRead .post 3 0 .release with
      params := { Params.standard with readOrder := .loadThenAdvance } }) =
      some (.masterRead, .pre, 0, 0, .byte 0x40) := by decide

/-- V-ID-1. -/
theorem test_byteIdPre :
    view (execByte 0x80 (put cfgA .idle .pre 0 0 .release)) = some (.idle, .post, 0, 0, .release) := by decide

/-- V-ID-3. -/
theorem test_byteIdPost :
    view (execByte 0x00 (put cfgA .idle .post 1 0 .ackLow)) = some (.idle, .pre, 1, 0, .release) := by decide

/-- R153: the state goes to Idle, the phase inverts, the rest stays. -/
theorem test_byteIll5 :
    view (execByte 0x80 (put cfgA .reserved5 .pre 1 3 .ackLow)) = some (.idle, .post, 1, 3, .release) := by decide

theorem test_byteIll67 :
    view (execByte 0x80 (put cfgA .reserved7 .post 1 3 .ackLow)) = some (.idle, .pre, 1, 3, .release) := by decide

/-- V-HO-15. -/
theorem test_stop :
    let s := put cfgA .masterWrite .pre 0 1 .release
    nextOf (exec .stop s) = some { s with stopPending := true } := by decide

/-- V-HO-6. -/
theorem test_drainHit :
    let o := exec .drainHit { put cfgA .masterWrite .post 0 1 .ackLow with stopPending := true }
    view o = some (.idle, .post, 0, 0, .ackLow) ∧ resultOf o = some (.count 1) ∧ stopOf o = some true := by decide

/-- V-HO-5. -/
theorem test_drainMiss :
    let o := exec .drainMiss { put cfgA .masterRead .pre 0 3 (.byte 7) with stopPending := true }
    view o = some (.masterRead, .pre, 0, 3, .byte 7) ∧ resultOf o = some (.count 0) := by decide

/-- V-HO-8, its second column's first part. -/
theorem test_drainT :
    let o := exec .drainT (put cfgA .masterWrite .pre 1 1 .release)
    view o = some (.masterWrite, .pre, 1, 1, .release) ∧ (nextOf o).map State.armed = some true := by decide

/-- V-HO-8: the critical section hits from MasterRead. -/
theorem test_drainC :
    let o := exec .drainC { put cfgA .masterRead .pre 0 1 (.byte 0x11) with stopPending := true, armed := true }
    view o = some (.idle, .pre, 0, 0, .byte 0x11) ∧ resultOf o = some (.count 1) ∧
    (nextOf o).map State.armed = some false := by decide

/-- V-HO-9. -/
theorem test_ongoing :
    ([ProtocolState.registerAddress, .masterRead, .masterWrite, .idle, .addressMatch].map fun st =>
      resultOf (exec .ongoing (put cfgA st .pre 0 0 .release))) =
      [some (.ongoing true), some (.ongoing true), some (.ongoing true), some (.ongoing false), some (.ongoing false)] := by
  decide

/-- V-HO-10, V-HO-11. -/
theorem test_hrd :
    resultOf (exec (.hrd 1) cfgA) = some (.byte 0x99) ∧ refusalOf (exec (.hrd 2) cfgA) = some .indexOutOfFile := by decide

/-- V-HO-12: the mask does not bind the host. -/
theorem test_hwr :
    let o := exec (.hwr 0 0x5A) { cfgA with mask := [] }
    regOf o 0 = some 0x5A ∧ regOf o 1 = some 0x99 ∧ view o = some (.idle, .pre, 0, 0, .release) := by decide

/-- V-HO-13, V-HO-14. -/
theorem test_hwr_in_transaction :
    refusalOf (exec (.hwr 0 0x5A) (put cfgA .masterWrite .pre 0 0 .release)) = some .transactionOngoing ∧
    regOf (exec (.hwr 0 0x5A) (put cfgA .addressMatch .pre 0 0 .release)) 0 = some 0x5A := by decide

/-- R183, R184: the waiting start notification goes first and the byte boundary beside it is dropped. -/
theorem test_start_before_byte :
    let o := step { put cfgA .masterWrite .pre 0 0 .release with startWaits := true, byteWaits := some 0x99 }
    view o = some (.addressMatch, .pre, 0, 0, .release) ∧ (nextOf o).map State.byteWaits = some none := by decide

/-- R183: a byte boundary raised while a host operation runs is delivered by the next step. -/
theorem test_byte_waits :
    let s := { put cfgA .masterWrite .pre 0 0 .release with
      trace := [{ word := 0x60000, args := none, scl := true, during := { start := false, byte := some 0x99 } }] }
    ((nextOf (step s)).bind fun t => view (step t)) = some (.masterWrite, .post, 1, 1, .ackLow) := by decide

/-! ### Witnesses: states and operands that meet the hypotheses of each statement -/

/-- A check whose success gives the invariants. -/
def invCheck (s : State) : Bool :=
  decide (s.off.toNat < s.n.toNat) && decide (s.n.toNat ≤ 256) && !s.st.isReserved && paramsLegal s.params &&
  decide (s.dirty < 2 ^ s.params.dirtyW) &&
  (match s.drv with
   | .release => true
   | .ackLow => s.ph == .post
   | .byte _ => s.st == .masterRead) &&
  (!s.sw || (s.st == .addressMatch && s.ph == .pre && s.drv == .release && s.byteWaits == none)) &&
  (!s.armed || s.params.drainAtomicity == .inner) &&
  decide (Memory.wf s.reg) && decide (∀ c ∈ s.reg, c.1 < s.n.toNat) &&
  decide (Memory.wf s.mask) && decide (∀ c ∈ s.mask, c.1 < s.n.toNat)

theorem inv_of_check {s : State} (h : invCheck s = true) : MachineInv s := by
  simp only [invCheck, Bool.and_eq_true, decide_eq_true_eq] at h
  obtain ⟨⟨⟨⟨⟨⟨⟨⟨⟨⟨⟨h1, h2⟩, h3⟩, h0⟩, h4⟩, h5⟩, h6⟩, h7⟩, h8⟩, h9⟩, h10⟩, h11⟩ := h
  refine ⟨h1, h2, by simpa using h3, h0, h4, fun _ v hv => ?_, fun hv => ?_, fun hs => ?_, fun hs => ?_, fun ha => ?_,
    h8, h9, h10, h11⟩
  · simpa [hv] using h5
  · simpa [hv] using h5
  · simp [hs] at h6; exact ⟨h6.1.1.1, h6.1.1.2, h6.1.2⟩
  · simp [hs] at h6; exact h6.2
  · simpa [ha] using h7

/-- A file of 256 registers, the pointer at the last one. -/
def cfgE : State := { cfg 0x40 1 (.globalMask 0xFF) [0] with n := 256, off := 255 }

def idleA : State := put cfgA .idle .pre 0 0 .release
def matchA : State := put cfgA .addressMatch .pre 1 0 .release
def waitA : State := { matchA with sw := true, scl := false }
def waitHighA : State := { matchA with sw := true, scl := true }
def regA : State := put cfgA .registerAddress .pre 0 0 .release
def writeA : State := put cfgA .masterWrite .pre 1 255 .release
def writeHitA : State := { writeA with stopPending := true }
def readA : State := put cfgA .masterRead .post 1 0 .ackLow
def armedA : State := { writeHitA with armed := true }
def reservedA : State := put cfgA .reserved5 .pre 0 0 .release

/-- The parameters that differ from the defaults. -/
def otherParams : Params :=
  { dirtyW := 1, readOrder := .loadThenAdvance, startWaitAbort := true, drainAtomicity := .whole }

theorem witness_MachineInv :
    MachineInv idleA ∧ MachineInv matchA ∧ MachineInv waitA ∧ MachineInv waitHighA ∧ MachineInv writeHitA ∧
    MachineInv readA ∧ MachineInv armedA ∧ MachineInv cfgE ∧ MachineInv { cfgE with params := otherParams } :=
  ⟨inv_of_check (by decide), inv_of_check (by decide), inv_of_check (by decide), inv_of_check (by decide),
   inv_of_check (by decide), inv_of_check (by decide), inv_of_check (by decide), inv_of_check (by decide),
   inv_of_check (by decide)⟩

theorem witness_DecodeEncodeRoundTrip :
    (Instr.byteRaNak 0xFF).wellFormed = true ∧ selected (ctx .registerAddress .pre) (.byteRaNak 0xFF) = true ∧
    (Instr.init legal).wellFormed = true ∧ selected (ctx .idle .pre) (.init legal) = true ∧
    (Instr.hwr 0xFF 0xFF).wellFormed = true ∧ selected (ctx .idle .pre) (.hwr 0xFF 0xFF) = true := by decide

theorem witness_DecodeIsSound :
    decode (ctx .addressMatch .pre) 0x3FF00 none = .instr (.byteAmNak 0xFF) ∧
    decode (ctx .idle .pre) 0x00000 (some legal) = .instr (.init legal) := by decide

theorem witness_SelectedRowIsUnique :
    encode (.byteMwData 0) = encode (.byteMwData 0) ∧ (Instr.byteMwData 0).args = (Instr.byteMwData 0).args ∧
    selected (ctx .masterWrite .pre) (.byteMwData 0) = true := by decide

theorem witness_AddressByteFormat :
    (ctx .addressMatch .pre).st = .addressMatch ∧ (ctx .addressMatch .pre).ph = .pre ∧
    (ctx .addressMatch .pre).addr = 0x40 ∧ ({ ctx .addressMatch .pre with addr := 127 } : Ctx).addr = 127 := by decide

theorem witness_RegisterAddressRange :
    let c := ctx .registerAddress .pre
    c.st = .registerAddress ∧ c.ph = .pre ∧ 1 ≤ c.n.toNat ∧ (1 : Byte).toNat ≤ c.n.toNat - 1 ∧
    c.n.toNat - 1 < (2 : Byte).toNat ∧ ({ c with n := 256 } : Ctx).n = 256 := by decide

/-- The three outcomes, a byte boundary raised meanwhile, and a byte that waits behind the start wait. -/
theorem witness_StepRunsDecodedOperation :
    let e : Arrival := { word := 0x60000, args := none, scl := true, during := { start := true, byte := some 0 } }
    (idleA.startWaits = false ∧ idleA.byteWaits = none ∧ decode (ctxOf idleA) e.word e.args = .instr .ongoing ∧
      nextOf (exec .ongoing { idleA with trace := [], scl := e.scl }) =
        some { idleA with trace := [], scl := e.scl, result := .ongoing false }) ∧
    (waitA.startWaits = false ∧ waitA.sw = true ∧ decode (ctxOf waitA) 0x20000 none = .instr .scllow ∧
      faultOf (exec .scllow { waitA with trace := [], scl := true }) = some .startWait) ∧
    (idleA.byteWaits = none ∧ decode (ctxOf idleA) 0x90000 none = .instr .abort ∧
      refusalOf (exec .abort { idleA with trace := [], scl := true }) = some .noStartWait) := by decide

theorem witness_WaitingNotificationsAreDelivered :
    (let s := { writeA with startWaits := true, byteWaits := some 0x99 }
     s.startWaits = true ∧ (nextOf (exec .start { s with startWaits := false, byteWaits := none })).isSome = true) ∧
    (let s := { writeA with byteWaits := some 0xFF }
     s.startWaits = false ∧ s.byteWaits = some 0xFF ∧ s.sw = false ∧
     (nextOf (exec (decodeByte (ctxOf s) 0xFF) { s with byteWaits := none })).isSome = true) := by decide

theorem witness_NothingArrivesLeavesState :
    (idleA.startWaits = false ∧ idleA.byteWaits = none ∧ idleA.trace = [] ∧ idleA.sw = false) ∧
    (let s := { waitHighA with params := otherParams }
     s.startWaits = false ∧ s.byteWaits = none ∧ s.trace = [] ∧ s.sw = true ∧ s.scl = true ∧
      s.params.startWaitAbort = true) ∧
    (waitHighA.startWaits = false ∧ waitHighA.byteWaits = none ∧ waitHighA.trace = [] ∧
      waitHighA.sw = true ∧ waitHighA.scl = true ∧ waitHighA.params.startWaitAbort = false) := by decide

theorem witness_IllFormedWordsAreRefused :
    (idleA.startWaits = false ∧ idleA.byteWaits = none ∧
      ({ idleA with trace := [arrive 0xA0000 true] } : State).trace = [arrive 0xA0000 true]) ∧
    10 ≤ (wordOp 0xA0000).toNat ∧ 10 ≤ (wordOp 0xFFFFF).toNat ∧
    (wordOp 0x50300 = 5 ∧ wordB 0x50300 = 0 ∧ 2 < (wordA 0x50300).toNat) ∧
    (wordOp 0x30001 = 3 ∧ wordB 0x30001 ≠ 0) ∧ (wordOp 0x503FF = 5 ∧ wordB 0x503FF ≠ 0) ∧
    (wordOp 0x700FF = 7 ∧ wordB 0x700FF ≠ 0) ∧
    (wordOp 0x00100 ∈ ([0, 1, 2, 4, 6, 9] : List (BitVec 4)) ∧ wordA 0x00100 ≠ 0) ∧
    (wordOp 0x90001 ∈ ([0, 1, 2, 4, 6, 9] : List (BitVec 4)) ∧ wordB 0x90001 ≠ 0) := by decide

/-- The largest register file, under a global mask. -/
def wideArgs : InitArgs := { addr := 0, n := 256, mask := .globalMask 7, reg := List.replicate 256 9 }

theorem witness_InitConfiguresAndResets :
    (State.reset.inited = false ∧ configLegal legal = true ∧ legal.mask = .perReg [1, 2] ∧ (1 : Byte).toNat < legal.n ∧
      1 ≤ State.reset.params.dirtyW ∧ 1 ≤ otherParams.dirtyW) ∧
    (configLegal wideArgs = true ∧ wideArgs.mask = .globalMask 7 ∧ (255 : Byte).toNat < wideArgs.n) :=
  ⟨by decide, by
    unfold configLegal wideArgs
    rw [List.length_replicate]; decide, rfl, by decide⟩

theorem witness_InitRefusals :
    idleA.inited = true ∧ State.reset.inited = false ∧ 128 ≤ ({ legal with addr := 128 } : InitArgs).addr ∧
    ({ legal with n := 0 } : InitArgs).n = 0 ∧ 256 < ({ legal with n := 257 } : InitArgs).n ∧
    ({ legal with reg := [3] } : InitArgs).reg.length < legal.n ∧ ({ otherParams with dirtyW := 0 } : Params).dirtyW = 0 ∧
    (let g := { legal with mask := .perReg [1] }
     g.mask = .perReg [1] ∧ ([1] : List Byte).length < g.n) := by decide

theorem witness_BeforeInitOnlyInit : State.reset.inited = false ∧ ∀ g, Instr.start ≠ .init g :=
  ⟨by decide, fun _ h => by cases h⟩

theorem witness_StartResetsSequencer :
    writeHitA.inited = true ∧ writeHitA.st.isReserved = false ∧ writeHitA.sw = false := by decide

theorem witness_StartWhileWaitingIsAbsorbed :
    waitA.inited = true ∧ waitA.st.isReserved = false ∧ waitA.sw = true := by decide

theorem witness_ScllowEndsStartWait :
    MachineInv waitA ∧ waitA.inited = true ∧ waitA.sw = true ∧ waitA.scl = false ∧
    (nextOf (exec .scllow waitA)).isSome = true :=
  ⟨inv_of_check (by decide), by decide⟩

theorem witness_AbortGivesUpWait :
    (let s := { waitA with params := otherParams }
     s.inited = true ∧ s.st.isReserved = false ∧ s.sw = true ∧ s.params.startWaitAbort = true) ∧
    (waitA.inited = true ∧ waitA.st.isReserved = false ∧ waitA.sw = true ∧ waitA.params.startWaitAbort = false) ∧
    (idleA.inited = true ∧ idleA.st.isReserved = false ∧ idleA.sw = false) := by decide

/-- `0x02` is the lowest foreign address, `0xFF` the highest. -/
theorem witness_ForeignAddressIsRefused :
    matchA.inited = true ∧ matchA.sw = false ∧ matchA.st = .addressMatch ∧ matchA.ph = .pre ∧
    addrField 0x02 ≠ matchA.addr ∧ addrField 0x02 ≠ 0 ∧ addrField 0xFF ≠ matchA.addr ∧ addrField 0xFF ≠ 0 := by decide

theorem witness_AddressedForReading :
    matchA.inited = true ∧ matchA.sw = false ∧ matchA.st = .addressMatch ∧ matchA.ph = .pre ∧
    addrField 0x81 = matchA.addr ∧ readBit 0x81 = true ∧ addrField 0x01 = 0 ∧ readBit 0x01 = true := by decide

theorem witness_AddressedForWriting :
    matchA.inited = true ∧ matchA.sw = false ∧ matchA.st = .addressMatch ∧ matchA.ph = .pre ∧
    addrField 0x80 = matchA.addr ∧ readBit 0x80 = false ∧ addrField 0x00 = 0 ∧ readBit 0x00 = false := by decide

theorem witness_RegisterAddressOutOfRangeIsRefused :
    regA.inited = true ∧ regA.sw = false ∧ regA.st = .registerAddress ∧ regA.ph = .pre ∧
    regA.n.toNat ≤ (2 : Byte).toNat := by decide

theorem witness_RegisterPointerIsLoaded :
    regA.inited = true ∧ regA.sw = false ∧ regA.st = .registerAddress ∧ regA.ph = .pre ∧
    (1 : Byte).toNat < regA.n.toNat := by decide

theorem witness_AcknowledgeHalvesAreTransparent :
    (let s := { regA with ph := .post }
     s.inited = true ∧ s.sw = false ∧ s.ph = .post ∧ s.st = .registerAddress) ∧
    (let s := { writeA with ph := .post }
     s.inited = true ∧ s.sw = false ∧ s.ph = .post ∧ s.st = .masterWrite) := by decide

theorem witness_DataByteIsStoredThroughMask :
    writeA.inited = true ∧ writeA.sw = false ∧ writeA.st = .masterWrite ∧ writeA.ph = .pre ∧ Memory.wf writeA.reg ∧
    writeA.off.toNat < writeA.n.toNat := by decide

theorem witness_ReadReleasesForAcknowledge :
    (let s := { readA with ph := .pre }
     s.inited = true ∧ s.sw = false ∧ s.st = .masterRead ∧ s.ph = .pre) := by decide

theorem witness_MasterNakEndsRead :
    readA.inited = true ∧ readA.sw = false ∧ readA.st = .masterRead ∧ readA.ph = .post ∧
    (0x01 : Byte).getLsbD 0 = true := by decide

theorem witness_MasterAckSendsNextRegister :
    readA.inited = true ∧ readA.sw = false ∧ readA.st = .masterRead ∧ readA.ph = .post ∧
    (0xFE : Byte).getLsbD 0 = false ∧ readA.off.toNat < readA.n.toNat ∧
    readA.params.readOrder = .advanceThenLoad ∧
    ({ readA with params := otherParams } : State).params.readOrder = .loadThenAdvance := by decide

theorem witness_FirstByteOfRead :
    MachineInv matchA ∧ MachineInv { matchA with params := otherParams } ∧ matchA.inited = true ∧ matchA.sw = false ∧
    matchA.st = .addressMatch ∧ matchA.ph = .pre ∧ addrField 0x81 = matchA.addr ∧ readBit 0x81 = true ∧
    (0 : Byte).getLsbD 0 = false :=
  ⟨inv_of_check (by decide), inv_of_check (by decide), by decide⟩

theorem witness_IdleIgnoresBytes :
    (idleA.inited = true ∧ idleA.sw = false ∧ idleA.st = .idle ∧ idleA.ph = .pre) ∧
    (let s := { idleA with ph := .post, drv := .ackLow }
     s.inited = true ∧ s.sw = false ∧ s.st = .idle ∧ s.ph = .post) := by decide

theorem witness_DefensiveRowsGiveUp :
    (let s := { matchA with ph := .post }
     s.inited = true ∧ s.sw = false ∧ s.st = .addressMatch ∧ s.ph = .post) ∧
    (reservedA.inited = true ∧ reservedA.sw = false ∧ reservedA.st = .reserved5) ∧
    (let s := { reservedA with st := .reserved7, ph := .post }
     s.inited = true ∧ s.sw = false ∧ s.st = .reserved7) := by decide

theorem witness_StopOnlySetsFlag :
    waitA.inited = true ∧ waitA.st.isReserved = false ∧ idleA.inited = true ∧ idleA.st.isReserved = false := by decide

theorem witness_DrainHitReportsAndClears :
    writeHitA.inited = true ∧ writeHitA.sw = false ∧ writeHitA.armed = false ∧ writeHitA.st = .masterWrite ∧
    0 < writeHitA.dirty ∧ writeHitA.stopPending = true := by decide

/-- The three ways to miss. -/
theorem witness_DrainMissReturnsZero :
    (idleA.inited = true ∧ idleA.st.isReserved = false ∧ idleA.sw = false ∧ idleA.armed = false ∧
      idleA.st ≠ .masterWrite) ∧
    (writeA.inited = true ∧ writeA.st.isReserved = false ∧ writeA.sw = false ∧ writeA.armed = false ∧
      writeA.stopPending = false) ∧
    ({ writeHitA with dirty := 0 } : State).dirty = 0 := by decide

theorem witness_DrainTestArms :
    (writeA.inited = true ∧ writeA.st.isReserved = false ∧ writeA.sw = false ∧ writeA.armed = false ∧
      writeA.params.drainAtomicity = .inner ∧ writeA.st = .masterWrite ∧ 0 < writeA.dirty) ∧
    (idleA.inited = true ∧ idleA.st.isReserved = false ∧ idleA.sw = false ∧ idleA.armed = false ∧
      idleA.params.drainAtomicity = .inner ∧ idleA.st ≠ .masterWrite) ∧
    ({ writeA with params := otherParams } : State).params.drainAtomicity = .whole := by decide

theorem witness_DrainCriticalSection :
    (armedA.inited = true ∧ armedA.st.isReserved = false ∧ armedA.sw = false ∧ armedA.params.drainAtomicity = .inner ∧
      armedA.armed = true ∧ armedA.stopPending = true) ∧
    (let s := { armedA with stopPending := false, st := .idle }
     s.inited = true ∧ s.st.isReserved = false ∧ s.sw = false ∧ s.armed = true ∧ s.stopPending = false) ∧
    (writeA.inited = true ∧ writeA.st.isReserved = false ∧ writeA.sw = false ∧ writeA.armed = false) := by decide

theorem witness_SplitDrainIsWholeDrain :
    writeHitA.inited = true ∧ writeHitA.st.isReserved = false ∧ writeHitA.sw = false ∧ writeHitA.armed = false ∧
    writeHitA.params.drainAtomicity = .inner := by decide

theorem witness_DrainCountsExactly :
    isHostCall .drainHit = true ∧
    (nextOf (exec .drainHit writeHitA)).map (fun t => decide (t.dirty ≠ writeHitA.dirty)) = some true ∧
    isHostCall .drainC = true ∧
    (nextOf (exec .drainC armedA)).map (fun t => decide (t.st ≠ armedA.st)) = some true ∧
    (nextOf (exec .start { waitA with stopPending := true })).isSome = true ∧
    (nextOf (exec .start writeHitA)).isSome = true := by decide

theorem witness_OngoingAnswersFromState :
    writeA.inited = true ∧ writeA.st.isReserved = false ∧ writeA.sw = false ∧ writeA.armed = false := by decide

theorem witness_HostReadReturnsRegister :
    writeA.inited = true ∧ writeA.st.isReserved = false ∧ writeA.sw = false ∧ writeA.armed = false ∧
    (1 : Byte).toNat < writeA.n.toNat := by decide

theorem witness_HostWriteStoresWholeByte :
    (idleA.inited = true ∧ idleA.sw = false ∧ idleA.armed = false ∧ idleA.st = .idle ∧ (1 : Byte).toNat < idleA.n.toNat ∧
      Memory.wf idleA.reg) ∧
    (matchA.inited = true ∧ matchA.sw = false ∧ matchA.armed = false ∧ matchA.st = .addressMatch ∧
      (1 : Byte).toNat < matchA.n.toNat ∧ Memory.wf matchA.reg) := by decide

theorem witness_HostAccessRefusals :
    (idleA.inited = true ∧ idleA.st.isReserved = false ∧ idleA.sw = false ∧ idleA.armed = false ∧
      idleA.n.toNat ≤ (2 : Byte).toNat) ∧
    (readA.inited = true ∧ readA.st.isReserved = false ∧ readA.sw = false ∧ readA.armed = false ∧
      (1 : Byte).toNat < readA.n.toNat ∧ readA.st = .masterRead) := by decide

theorem witness_ReservedStateRefusesOthers :
    (reservedA.inited = true ∧ reservedA.st.isReserved = true ∧ isByte .start = false) ∧ ∀ g, Instr.start ≠ .init g :=
  ⟨by decide, fun _ h => by cases h⟩

/-- A data byte at the last register, and a waiting start notification, both from states that meet the invariants. -/
theorem witness_StepKeepsInvariants :
    MachineInv { writeA with trace := [arrive 0x3FF00 true] } ∧
    (nextOf (step { writeA with trace := [arrive 0x3FF00 true] })).isSome = true ∧
    MachineInv { readA with startWaits := true } ∧ (nextOf (step { readA with startWaits := true })).isSome = true :=
  ⟨inv_of_check (by decide), by decide, inv_of_check (by decide), by decide⟩

theorem witness_CompletesExactlyWhenEnabled :
    MachineInv writeA ∧ enabled writeA (.byteMwData 0xFF) ∧ MachineInv waitA ∧ ¬ enabled waitA (.byteMwData 0xFF) :=
  ⟨inv_of_check (by decide), ⟨by decide, by decide, by decide⟩, inv_of_check (by decide), fun h => by
    have := h.2.1; revert this; decide⟩

theorem witness_FaultsOnlyInStartWait :
    (MachineInv waitHighA ∧ waitHighA.inited = true ∧ waitHighA.sw = true ∧ waitHighA.scl = true ∧
      waitHighA.params.startWaitAbort = false ∧ faultOf (exec .scllow waitHighA) = some .startWait) ∧
    (let s := { waitHighA with params := otherParams }
     MachineInv s ∧ s.inited = true ∧ s.sw = true ∧ s.scl = true ∧ s.params.startWaitAbort = true) :=
  ⟨⟨inv_of_check (by decide), by decide⟩, inv_of_check (by decide), by decide⟩

theorem witness_EveryByteTakesOneRow :
    (writeA.off.toNat < writeA.n.toNat ∧ writeA.inited = true ∧ writeA.sw = false) ∧
    (reservedA.off.toNat < reservedA.n.toNat ∧ reservedA.inited = true ∧ reservedA.sw = false) ∧
    isByte (.byteMwData 0) = true ∧ (Instr.byteMwData 0).operandA = 0 ∧
    (nextOf (exec (.byteMwData 0) writeA)).isSome = true := by decide

theorem witness_BytesFlipPhaseAndRedrive :
    isByte (.byteMwData 0) = true ∧ (nextOf (exec (.byteMwData 0) writeA)).isSome = true := by decide

theorem witness_IgnoredOperandHasNoEffect :
    (({ writeA with ph := .post } : State).ph = .post ∧ writeA.st ≠ .masterRead) ∧
    (({ readA with ph := .pre } : State).ph = .pre ∧ readA.st = .masterRead) ∧ (idleA.ph = .pre ∧ idleA.st = .idle) ∧
    (readA.ph = .post ∧ readA.st = .masterRead ∧ (0x01 : Byte).getLsbD 0 = (0xFF : Byte).getLsbD 0) := by decide

theorem witness_OnlyScllowOrAbortEndsWait :
    (waitA.inited = true ∧ waitA.sw = true ∧ isByte (.byteAmWr 0) = true ∧ isHostCall .drainC = true) ∧
    swOf (exec .scllow waitA) = some false ∧ swOf (exec .abort { waitA with params := otherParams }) = some false := by
  decide

theorem witness_IdleLeftOnlyByStart :
    (idleA.st = .idle ∧ (view (exec .start idleA)).map (fun v => decide (v.1 ≠ .idle)) = some true) ∧
    isByte (.byteIdPre 0) = true ∧ (nextOf (exec (.byteIdPre 0) idleA)).isSome = true := by decide

theorem witness_OnlyThreeOperationsWriteRegisters :
    (nextOf (exec (.byteMwData 0xAA) writeA)).map (fun t => decide (t.reg ≠ writeA.reg)) = some true ∧
    (nextOf (exec (.hwr 1 0) idleA)).map (fun t => decide (t.reg ≠ idleA.reg)) = some true ∧
    (nextOf (exec (.init legal) State.reset)).map (fun t => decide (t.reg ≠ State.reset.reg)) = some true := by decide

theorem witness_BusRespectsWriteMask :
    (Memory.wf cfgB.reg ∧ (nextOf (exec (.byteMwData 0x22) (put cfgB .masterWrite .pre 0 0 .release))).isSome = true) ∧
    (∀ g, Instr.byteMwData 0x22 ≠ .init g) ∧ ∀ j v, Instr.byteMwData 0x22 ≠ .hwr j v :=
  ⟨by decide, (fun _ h => nomatch h), fun _ _ h => nomatch h⟩

/-- The writers of the pointer and one operation that leaves it (also of ConfigurationIsConstant, DirtyWriters). -/
theorem witness_PointerWriters :
    (nextOf (exec (.byteAmWr 0x80) matchA)).isSome = true ∧ (nextOf (exec (.byteMrNak 0x01) readA)).isSome = true ∧
    (nextOf (exec (.byteRaLoad 0x01) regA)).isSome = true ∧ (nextOf (exec (.byteMwData 0x01) writeA)).isSome = true ∧
    (nextOf (exec (.byteMrAck 0x00) readA)).isSome = true ∧ (nextOf (exec .stop idleA)).isSome = true ∧
    (nextOf (exec (.init legal) State.reset)).isSome = true := by decide

theorem witness_ConfigurationIsConstant :
    (nextOf (exec .start idleA)).isSome = true ∧ idleA.inited = true ∧
    (nextOf (exec (.init legal) State.reset)).isSome = true := by decide

theorem witness_DirtyWriters :
    ((nextOf (exec (.byteMwData 0x01) writeA)).isSome = true ∧ isDataWrite (.byteMwData 0x01) = true) ∧
    ((nextOf (exec .drainHit writeHitA)).isSome = true ∧ hitsAt writeHitA .drainHit = true) ∧
    ((nextOf (exec .drainC armedA)).isSome = true ∧ hitsAt armedA .drainC = true) ∧
    ((nextOf (exec .start idleA)).isSome = true ∧ isDataWrite .start = false ∧ hitsAt idleA .start = false) := by decide

theorem witness_HostContextRights :
    isHostCall .drainHit = true ∧ (nextOf (exec .drainHit writeHitA)).isSome = true ∧
    isHostCall (.hwr 1 5) = true ∧ (nextOf (exec (.hwr 1 5) matchA)).isSome = true := by decide

/-- A pointer below the last register, one at it, also with `N = 256`, and a master that writes. -/
theorem witness_WritingMovesPointerModuloN :
    (MachineInv regA ∧ regA.off.toNat < regA.n.toNat - 1) ∧
    (MachineInv cfgE ∧ cfgE.off.toNat = cfgE.n.toNat - 1) ∧
    (MachineInv writeA ∧ writeA.inited = true ∧ writeA.sw = false ∧ writeA.st = .masterWrite ∧ writeA.ph = .pre) :=
  ⟨⟨inv_of_check (by decide), by decide⟩, ⟨inv_of_check (by decide), by decide⟩, inv_of_check (by decide), by decide⟩

theorem witness_DirtyCountsDataBytes :
    writeA.inited = true ∧ writeA.dirty < 2 ^ writeA.params.dirtyW ∧
    (runOps [.byteMwData 1, .byteMwPost 0, .stop] writeA).isSome = true ∧
    noHit [.byteMwData 1, .byteMwPost 0, .stop] writeA :=
  ⟨by decide, by decide, by decide, rfl, rfl, rfl, trivial⟩

end Sys2Proof.Tests
end

/-! ## Encoding: the address byte and the register-address byte (30_encoding.md R75, R76) -/

namespace Sys2Proof

/-! ### The fields of the address byte, as numbers -/

theorem addrField_toNat (rx : Byte) : (addrField rx).toNat = rx.toNat / 2 := by
  have := rx.isLt
  simp only [addrField, BitVec.extractLsb'_toNat, Nat.shiftRight_eq_div_pow]
  omega

theorem readBit_eq (rx : Byte) : readBit rx = decide (rx.toNat % 2 = 1) := by
  simp [readBit, BitVec.getLsbD, Nat.testBit_zero]

/-- `ADDR * 2 + RW` fits the byte, so nothing is lost when it is put on the bus. -/
theorem addressByte_toNat (a : BitVec 7) (r : Bool) :
    (BitVec.ofNat 8 (a.toNat * 2 + r.toNat)).toNat = a.toNat * 2 + r.toNat := by
  have := a.isLt
  have := r.toNat_lt
  rw [BitVec.toNat_ofNat, Nat.mod_eq_of_lt (by omega)]

theorem addrField_addressByte (a : BitVec 7) (r : Bool) :
    addrField (BitVec.ofNat 8 (a.toNat * 2 + r.toNat)) = a := by
  apply BitVec.eq_of_toNat_eq
  have := r.toNat_lt
  rw [addrField_toNat, addressByte_toNat]
  omega

theorem readBit_addressByte (a : BitVec 7) (r : Bool) :
    readBit (BitVec.ofNat 8 (a.toNat * 2 + r.toNat)) = r := by
  rw [readBit_eq, addressByte_toNat, Nat.mul_add_mod_self_right]
  cases r <;> rfl

/-! ### The rows of the first halves of AddressMatch and RegisterAddress (R72) -/

section

variable {c : Ctx} {rx : Byte}

theorem decodeByte_addressMatch (hst : c.st = .addressMatch) (hph : c.ph = .pre)
    (ha : addrField rx = c.addr) :
    decodeByte c rx = if readBit rx then .byteAmRd rx else .byteAmWr rx := by
  simp [decodeByte, hst, hph, addrMatch, ha]

theorem decodeByte_registerAddress (hst : c.st = .registerAddress) (hph : c.ph = .pre) :
    decodeByte c rx = if rx.toNat < c.n.toNat then .byteRaLoad rx else .byteRaNak rx := by
  simp [decodeByte, hst, hph, inFile]

/-- The block with address `a` takes `a * 2 + RW` as its own, in the direction `RW` says. -/
theorem decodeByte_addressByte (a : BitVec 7) (r : Bool) (hst : c.st = .addressMatch)
    (hph : c.ph = .pre) (ha : c.addr = a) :
    decodeByte c (BitVec.ofNat 8 (a.toNat * 2 + r.toNat)) =
      if r then .byteAmRd (BitVec.ofNat 8 (a.toNat * 2 + r.toNat))
      else .byteAmWr (BitVec.ofNat 8 (a.toNat * 2 + r.toNat)) := by
  rw [decodeByte_addressMatch hst hph (by rw [addrField_addressByte, ha]), readBit_addressByte]

end

/-! ### The obligations -/

/-- Settles O5: each clause is a fact about `ADDR * 2 + RW`, at `RW = 0` and at `RW = 1`. -/
theorem addressByteFormat : Obligations.AddressByteFormat := fun a =>
  ⟨addrField_addressByte a false, readBit_addressByte a false,
    addrField_addressByte a true, readBit_addressByte a true,
    fun _ hst hph ha =>
      ⟨decodeByte_addressByte a false hst hph ha, decodeByte_addressByte a true hst hph ha⟩⟩

/-- Settles O6: with `N >= 1` the decoder's `rx < N` is `rx <= N-1`, and every byte is below 256. -/
theorem registerAddressRange : Obligations.RegisterAddressRange := by
  intro c rx hst hph hn
  rw [decodeByte_registerAddress hst hph]
  refine ⟨fun hle => if_pos (by omega), fun hlt => if_neg (by omega), fun h256 => if_pos ?_⟩
  have h : c.n.toNat = 256 := by rw [h256]; rfl
  have := rx.isLt
  omega

end Sys2Proof

/-! ## START: the end of the start wait (40_start.md R101) -/

namespace Sys2Proof

open Machine

/-- In the start wait the block stands before an address byte, so its 8 bits come before the next boundary (R101). -/
theorem nextLen_of_startWait {s : State} (hs : MachineInv s) (hsw : s.sw = true) : nextLen s.ph = 8 := by
  obtain ⟨-, hph, -⟩ := hs.startWait hsw
  rw [hph, nextLen]

/-- Settles O16: `exec_scllow_next` read in both directions; the phase in the wait is a clause of the invariants. -/
theorem scllowEndsStartWait : Obligations.ScllowEndsStartWait := by
  intro s hs hinit
  constructor
  · intro hsw hscl
    have hlive : live s := ⟨hinit, hs.fiveStates⟩
    exact ⟨exec_scllow_next.2 ⟨⟨hlive, hsw, hscl⟩, rfl⟩, nextLen_of_startWait hs hsw⟩
  · rintro ⟨t, ht⟩
    obtain ⟨⟨-, hsw, hscl⟩, -⟩ := exec_scllow_next.1 ht
    exact ⟨hsw, hscl⟩

end Sys2Proof

/-! ## BYTE: the address byte and the register-address byte (41_byte_address.md R110, R114, R117, R118) -/

namespace Sys2Proof

open Machine

/-! ### The row of a BYTE is the decoder's (R79, R110) -/

/-- A BYTE word decodes to the row `decodeByte` chooses, whatever arguments stand beside it (R72, R74). -/
theorem decode_byteWord (c : Ctx) (rx : Byte) (args : Option InitArgs) :
    decode c (eventWord 3 rx 0) args = .instr (decodeByte c rx) := by
  simp [decode, Laws.wordOp_eventWord, Laws.wordA_eventWord, Laws.wordB_eventWord, zeroOperands]

theorem addrMatch_iff {a : BitVec 7} {rx : Byte} :
    addrMatch a rx = true ↔ addrField rx = a ∨ addrField rx = 0 := by
  simp [addrMatch]

/-- With `selected_decodeByte`: the decoder's row is the only BYTE row the table selects for an operand. -/
theorem decodeByte_of_selected {c : Ctx} {i : Instr} (hb : isByte i = true) (h : selected c i = true) :
    decodeByte c i.operandA = i := by
  cases i with
  | init _ | start | scllow | abort | stop | drainHit | drainMiss | drainT | drainC | ongoing | hrd _
  | hwr _ _ => cases hb
  | byteAmNak rx =>
    obtain ⟨hst, hph, ha, h0⟩ := selected_byteAmNak.1 h
    have hm : ¬ addrMatch c.addr rx = true := fun hm => (addrMatch_iff.1 hm).elim ha h0
    simp [decodeByte, Instr.operandA, hst, hph, hm]
  | byteAmRd rx =>
    obtain ⟨hst, hph, ha, hr⟩ := selected_byteAmRd.1 h
    simp [decodeByte, Instr.operandA, hst, hph, addrMatch_iff.2 ha, hr]
  | byteAmWr rx =>
    obtain ⟨hst, hph, ha, hr⟩ := selected_byteAmWr.1 h
    simp [decodeByte, Instr.operandA, hst, hph, addrMatch_iff.2 ha, hr]
  | byteAmPost rx =>
    obtain ⟨hst, hph⟩ := selected_byteAmPost.1 h
    simp [decodeByte, Instr.operandA, hst, hph]
  | byteRaNak rx =>
    obtain ⟨hst, hph, hn⟩ := selected_byteRaNak.1 h
    rw [Instr.operandA, decodeByte_registerAddress hst hph, if_neg (by omega)]
  | byteRaLoad rx =>
    obtain ⟨hst, hph, hn⟩ := selected_byteRaLoad.1 h
    rw [Instr.operandA, decodeByte_registerAddress hst hph, if_pos hn]
  | byteRaPost rx =>
    obtain ⟨hst, hph⟩ := selected_byteRaPost.1 h
    simp [decodeByte, Instr.operandA, hst, hph]
  | byteMrPre rx =>
    obtain ⟨hst, hph⟩ := selected_byteMrPre.1 h
    simp [decodeByte, Instr.operandA, hst, hph]
  | byteMrNak rx =>
    obtain ⟨hst, hph, hk⟩ := selected_byteMrNak.1 h
    simp [decodeByte, Instr.operandA, hst, hph, hk]
  | byteMrAck rx =>
    obtain ⟨hst, hph, hk⟩ := selected_byteMrAck.1 h
    simp [decodeByte, Instr.operandA, hst, hph, hk]
  | byteMwData rx =>
    obtain ⟨hst, hph⟩ := selected_byteMwData.1 h
    simp [decodeByte, Instr.operandA, hst, hph]
  | byteMwPost rx =>
    obtain ⟨hst, hph⟩ := selected_byteMwPost.1 h
    simp [decodeByte, Instr.operandA, hst, hph]
  | byteIdPre rx =>
    obtain ⟨hst, hph⟩ := selected_byteIdPre.1 h
    simp [decodeByte, Instr.operandA, hst, hph]
  | byteIdPost rx =>
    obtain ⟨hst, hph⟩ := selected_byteIdPost.1 h
    simp [decodeByte, Instr.operandA, hst, hph]
  | byteIll5 rx =>
    have hst := selected_byteIll5.1 h
    simp [decodeByte, Instr.operandA, hst]
  | byteIll67 rx =>
    obtain hst | hst := selected_byteIll67.1 h <;> simp [decodeByte, Instr.operandA, hst]

/-! ### When a BYTE row completes (R110) -/

section

variable {i : Instr} {s t : State}

theorem enabled_of_exec_next (h : exec i s = .next t) : enabled s i := by
  apply exec_inversion (fun i s _ => enabled s i) (h := h) <;> intros <;> assumption

/-- What the spec asks of a BYTE row is the same for all of them. -/
theorem enabled_iff_byteReady (hb : isByte i = true) : enabled s i ↔ byteReady i s := by
  cases i with
  | init _ | start | scllow | abort | stop | drainHit | drainMiss | drainT | drainC | ongoing | hrd _
  | hwr _ _ => cases hb
  | _ => exact Iff.rfl

theorem byteReady_of_exec_next (hb : isByte i = true) (h : exec i s = .next t) : byteReady i s :=
  (enabled_iff_byteReady hb).1 (enabled_of_exec_next h)

/-- Both pointers R142 may load at are inside the register file when `off` is (R25). -/
theorem loadPtr_lt (hoff : s.off.toNat < s.n.toNat) : (loadPtr s).toNat < s.n.toNat := by
  unfold loadPtr
  cases s.params.readOrder with
  | advanceThenLoad => exact nextPtr_lt (by omega)
  | loadThenAdvance => exact hoff

/-- Only the data byte of a write and the acknowledged byte of a read need the pointer inside the file. -/
theorem exists_exec_next_of_byteReady (hb : isByte i = true) (hoff : s.off.toNat < s.n.toNat)
    (h : byteReady i s) : ∃ t, exec i s = .next t := by
  cases i with
  | init _ | start | scllow | abort | stop | drainHit | drainMiss | drainT | drainC | ongoing | hrd _
  | hwr _ _ => cases hb
  | byteMrAck _ => exact ⟨_, exec_byteMrAck_next.2 ⟨⟨h, loadPtr_lt hoff⟩, rfl⟩⟩
  | byteMwData _ => exact ⟨_, exec_byteMwData_next.2 ⟨⟨h, hoff⟩, rfl⟩⟩
  | byteAmNak _ => exact ⟨_, exec_byteAmNak_next.2 ⟨h, rfl⟩⟩
  | byteAmRd _ => exact ⟨_, exec_byteAmRd_next.2 ⟨h, rfl⟩⟩
  | byteAmWr _ => exact ⟨_, exec_byteAmWr_next.2 ⟨h, rfl⟩⟩
  | byteAmPost _ => exact ⟨_, exec_byteAmPost_next.2 ⟨h, rfl⟩⟩
  | byteRaNak _ => exact ⟨_, exec_byteRaNak_next.2 ⟨h, rfl⟩⟩
  | byteRaLoad _ => exact ⟨_, exec_byteRaLoad_next.2 ⟨h, rfl⟩⟩
  | byteRaPost _ => exact ⟨_, exec_byteRaPost_next.2 ⟨h, rfl⟩⟩
  | byteMrPre _ => exact ⟨_, exec_byteMrPre_next.2 ⟨h, rfl⟩⟩
  | byteMrNak _ => exact ⟨_, exec_byteMrNak_next.2 ⟨h, rfl⟩⟩
  | byteMwPost _ => exact ⟨_, exec_byteMwPost_next.2 ⟨h, rfl⟩⟩
  | byteIdPre _ => exact ⟨_, exec_byteIdPre_next.2 ⟨h, rfl⟩⟩
  | byteIdPost _ => exact ⟨_, exec_byteIdPost_next.2 ⟨h, rfl⟩⟩
  | byteIll5 _ => exact ⟨_, exec_byteIll5_next.2 ⟨h, rfl⟩⟩
  | byteIll67 _ => exact ⟨_, exec_byteIll67_next.2 ⟨h, rfl⟩⟩

theorem endByte_of_pre (hph : s.ph = .pre) : endByte s = { s with ph := .post } := by
  rw [endByte, hph, flipPhase]

end

/-! ### The obligations -/

/-- Settles O48: the decoded row completes because the table selects it, and any BYTE row that completes is selected, so
it is the decoded one. -/
theorem everyByteTakesOneRow : Obligations.EveryByteTakesOneRow := by
  constructor
  · intro rx s hoff hinit hsw
    obtain ⟨-, -, -, hb⟩ := decodeByte_fields (ctxOf s) rx
    obtain ⟨t, ht⟩ := exists_exec_next_of_byteReady hb hoff ⟨hinit, hsw, selected_decodeByte _ _⟩
    refine ⟨_, t, decode_byteWord _ rx none, ht, ?_⟩
    rintro j u hj rfl hu
    obtain ⟨-, -, hsel⟩ := byteReady_of_exec_next hj hu
    exact (decodeByte_of_selected hj hsel).symm
  · intro i s t hb h
    obtain ⟨hinit, hsw, -⟩ := byteReady_of_exec_next hb h
    exact ⟨hinit, hsw⟩

/-- Settles O18: the table selects BYTE.AM.NAK, and its effect is the rejection with the phase inverted. -/
theorem foreignAddressIsRefused : Obligations.ForeignAddressIsRefused := by
  intro rx s hinit hsw hst hph ha h0
  have hready : byteReady (.byteAmNak rx) s := ⟨hinit, hsw, selected_byteAmNak.2 ⟨hst, hph, ha, h0⟩⟩
  exact exec_byteAmNak_next.2 ⟨hready, (endByte_of_pre (s := raiseReject .addressMismatch s) hph).symm⟩

/-- Settles O21: the table selects BYTE.RA.NAK from `rx = N` up, and its effect is the rejection with the phase
inverted. -/
theorem registerAddressOutOfRangeIsRefused : Obligations.RegisterAddressOutOfRangeIsRefused := by
  intro rx s hinit hsw hst hph hn
  have hready : byteReady (.byteRaNak rx) s := ⟨hinit, hsw, selected_byteRaNak.2 ⟨hst, hph, hn⟩⟩
  exact exec_byteRaNak_next.2 ⟨hready, (endByte_of_pre (s := raiseReject .registerOutOfRange s) hph).symm⟩

/-- Settles O22: the table selects BYTE.RA.LOAD below `N`, and the pointer it loads is `rx` itself. -/
theorem registerPointerIsLoaded : Obligations.RegisterPointerIsLoaded := by
  intro rx s hinit hsw hst hph hn
  have hready : byteReady (.byteRaLoad rx) s := ⟨hinit, hsw, selected_byteRaLoad.2 ⟨hst, hph, hn⟩⟩
  exact exec_byteRaLoad_next.2
    ⟨hready, (endByte_of_pre (s := goTo .masterWrite (setPtr rx (drive .ackLow s))) hph).symm⟩

end Sys2Proof

/-! ## BYTE in MasterWrite: the mask, the pointer and the count of the stored bytes (42_master_write.md R132 to R134) -/

namespace Sys2Proof

open Machine

/-! ### The mask law, bit by bit (R132) -/

theorem maskedByte_getLsbD (o v m : Byte) {k : Nat} (hk : k < 8) :
    (maskedByte o v m).getLsbD k = if m.getLsbD k then v.getLsbD k else o.getLsbD k := by
  have hbit : (maskedByte o v m).getLsbD k = ((o.getLsbD k && !m.getLsbD k) || (v.getLsbD k && m.getLsbD k)) := by
    simp [maskedByte, hk]
  rw [hbit]
  cases m.getLsbD k <;> simp

/-- Under a mask bit 1 both stores give the data byte's bit, under 0 both keep the old one. -/
theorem maskedByte_idem (o v m : Byte) : maskedByte (maskedByte o v m) v m = maskedByte o v m := by
  apply BitVec.eq_of_getLsbD_eq
  intro k hk
  simp only [maskedByte_getLsbD _ _ _ hk]
  split <;> rfl

/-! ### One data byte and its acknowledge, from the first half of MasterWrite (R130, R131) -/

/-- The block stands in a write transaction before a data byte, its pointer inside the register file (R25, R31). -/
structure AwaitsDataByte (s : State) : Prop where
  inited : s.inited = true
  noStartWait : s.sw = false
  st : s.st = .masterWrite
  ph : s.ph = .pre
  ptr : s.off.toNat < s.n.toNat
  size : s.n.toNat ≤ 256

/-- What BYTE.MW.DATA leaves (R130). -/
def afterData (d : Byte) (s : State) : State :=
  endByte (drive .ackLow (advancePtr (countWrite (storeMasked d s))))

/-- What BYTE.MW.POST leaves (R131). -/
def afterAck (s : State) : State := endByte (drive .release s)

section

variable {s : State}

theorem execByte_data (hs : AwaitsDataByte s) (d : Byte) : execByte d s = .next (afterData d s) := by
  have hrow : decodeByte (ctxOf s) d = .byteMwData d := by simp [decodeByte, ctxOf, hs.st, hs.ph]
  have hready : byteReady (.byteMwData d) s :=
    ⟨hs.inited, hs.noStartWait, selected_byteMwData.2 ⟨hs.st, hs.ph⟩⟩
  rw [execByte, hrow]
  exact exec_byteMwData_next.2 ⟨⟨hready, hs.ptr⟩, rfl⟩

theorem execByte_ack (rx : Byte) (hinit : s.inited = true) (hsw : s.sw = false) (hst : s.st = .masterWrite)
    (hph : s.ph = .post) : execByte rx s = .next (afterAck s) := by
  have hrow : decodeByte (ctxOf s) rx = .byteMwPost rx := by simp [decodeByte, ctxOf, hst, hph]
  have hready : byteReady (.byteMwPost rx) s := ⟨hinit, hsw, selected_byteMwPost.2 ⟨hst, hph⟩⟩
  rw [execByte, hrow]
  exact exec_byteMwPost_next.2 ⟨hready, rfl⟩

theorem afterAck_afterData_n (d : Byte) : (afterAck (afterData d s)).n = s.n := by
  simp [afterAck, afterData]

theorem afterAck_afterData_off (d : Byte) : (afterAck (afterData d s)).off = nextPtr s.n s.off := by
  simp [afterAck, afterData]

theorem runBytes_cons {rx : Byte} {t : State} (h : execByte rx s = .next t) (rest : List Byte) :
    runBytes (rx :: rest) s = runBytes rest t := by
  rw [runBytes, h]

/-- A data byte and its acknowledge bit are run, and the rest of the bytes after them. -/
theorem runBytes_data_ack (hs : AwaitsDataByte s) (d : Byte) (rest : List Byte) :
    runBytes (d :: 0 :: rest) s = runBytes rest (afterAck (afterData d s)) := by
  have hack : execByte 0 (afterData d s) = .next (afterAck (afterData d s)) :=
    execByte_ack 0 hs.inited hs.noStartWait hs.st (by simp [afterData, hs.ph, flipPhase])
  rw [runBytes_cons (execByte_data hs d), runBytes_cons hack]

theorem awaitsDataByte_afterAck (hs : AwaitsDataByte s) (d : Byte) :
    AwaitsDataByte (afterAck (afterData d s)) where
  inited := by simp [afterAck, afterData, hs.inited]
  noStartWait := by simp [afterAck, afterData, hs.noStartWait]
  st := by simp [afterAck, afterData, hs.st]
  ph := by simp [afterAck, afterData, hs.ph, flipPhase]
  ptr := by
    rw [afterAck_afterData_off, afterAck_afterData_n]
    exact nextPtr_lt (Nat.zero_lt_of_lt hs.ptr)
  size := by
    rw [afterAck_afterData_n]
    exact hs.size

/-- The pointer law along a write (R133): every data byte moves the pointer on by one, modulo `N`. -/
theorem runBytes_dataBytes (ds : List Byte) (hs : AwaitsDataByte s) :
    ∃ t, runBytes (dataBytes ds) s = some t ∧ AwaitsDataByte t ∧
      t.off.toNat = (s.off.toNat + ds.length) % s.n.toNat := by
  induction ds generalizing s with
  | nil => exact ⟨s, rfl, hs, (Nat.mod_eq_of_lt hs.ptr).symm⟩
  | cons d ds ih =>
    obtain ⟨t, hrun, ht, hoff⟩ := ih (awaitsDataByte_afterAck hs d)
    rw [afterAck_afterData_off, afterAck_afterData_n] at hoff
    refine ⟨t, by rw [dataBytes, runBytes_data_ack hs, hrun], ht, ?_⟩
    calc t.off.toNat
        = ((nextPtr s.n s.off).toNat + ds.length) % s.n.toNat := hoff
      _ = (s.off.toNat + 1 + ds.length) % s.n.toNat := by rw [nextPtr_toNat hs.ptr hs.size, Nat.mod_add_mod]
      _ = (s.off.toNat + (d :: ds).length) % s.n.toNat := by rw [List.length_cons, Nat.add_right_comm, Nat.add_assoc]

end

/-! ### The count along a run (R134) -/

section

variable {i : Instr} {s t : State}

theorem exec_params (h : exec i s = .next t) : t.params = s.params := by
  apply exec_inversion (fun _ s t => t.params = s.params) (h := h)
  case h_start | h_drainT | h_drainC => intros; split <;> rfl
  all_goals intros; rfl

theorem exec_inited (h : exec i s = .next t) (hinit : s.inited = true) : t.inited = true := by
  revert hinit
  apply exec_inversion (fun _ s t => s.inited = true → t.inited = true) (h := h)
  case h_start | h_drainT | h_drainC => intros; split <;> assumption
  case h_init => intros; rfl
  all_goals intros; assumption

/-- Of the operations that can follow INIT, only a data byte and a DRAIN that hits write the count (R27). -/
theorem exec_dirty (h : exec i s = .next t) (hinit : s.inited = true) (hmiss : hitsAt s i = false) :
    t.dirty = if isDataWrite i then nextDirty s.params s.dirty else s.dirty := by
  revert hinit hmiss
  apply exec_inversion (fun i s t => s.inited = true → hitsAt s i = false →
    t.dirty = if isDataWrite i then nextDirty s.params s.dirty else s.dirty) (h := h)
  case h_init =>
    rintro s g ⟨hnot, -⟩ hinit
    rw [hnot] at hinit
    cases hinit
  case h_drainHit =>
    intro s _ _ hmiss
    cases hmiss
  case h_drainC =>
    intro s _ _ hmiss
    have hp : s.stopPending = false := hmiss
    simp [hp, isDataWrite]
  case h_start | h_drainT => intros; split <;> rfl
  all_goals intros; rfl

/-- One operation adds one or nothing to the count, modulo `2^DIRTY_W`. -/
theorem exec_dirty_mod (h : exec i s = .next t) (hinit : s.inited = true) (hfits : s.dirty < 2 ^ s.params.dirtyW)
    (hmiss : hitsAt s i = false) : t.dirty = (s.dirty + (isDataWrite i).toNat) % 2 ^ s.params.dirtyW := by
  rw [exec_dirty h hinit hmiss]
  cases isDataWrite i with
  | true => rfl
  | false => exact (Nat.mod_eq_of_lt hfits).symm

theorem runOps_cons_some {is : List Instr} (h : runOps (i :: is) s = some t) :
    ∃ u, exec i s = .next u ∧ runOps is u = some t := by
  rw [runOps] at h
  cases hx : exec i s with
  | next u => exact ⟨u, rfl, by rwa [hx] at h⟩
  | fault _ => rw [hx] at h; cases h
  | refused _ => rw [hx] at h; cases h

theorem noHit_cons {is : List Instr} {u : State} (h : noHit (i :: is) s) (hx : exec i s = .next u) :
    hitsAt s i = false ∧ noHit is u := by
  rwa [noHit, hx] at h

end

theorem length_filter_isDataWrite_cons (i : Instr) (is : List Instr) :
    ((i :: is).filter isDataWrite).length = (isDataWrite i).toNat + (is.filter isDataWrite).length := by
  cases hi : isDataWrite i <;> simp [hi, Nat.add_comm]

/-! ### The obligations -/

/-- Settles O59: the one-step law is `nextPtr_toNat` at and below `N-1`; along a write `runBytes_dataBytes` gives the
pointer, which is where the next data byte is stored. -/
theorem writingMovesPointerModuloN : Obligations.WritingMovesPointerModuloN := by
  constructor
  · intro s hs
    have hnext := nextPtr_toNat hs.ptr hs.size
    constructor
    · intro hlt
      rw [hnext, Nat.mod_eq_of_lt (by omega)]
    · intro hlast
      have hptr := hs.ptr
      have hwrap : s.off.toNat + 1 = s.n.toNat := by omega
      apply BitVec.eq_of_toNat_eq
      rw [hnext, hwrap, Nat.mod_self]
      rfl
  · intro ds s hs hinit hsw hst hph
    obtain ⟨t, hrun, ht, hoff⟩ := runBytes_dataBytes ds ⟨hinit, hsw, hst, hph, hs.ptr, hs.size⟩
    refine ⟨t, hrun, hoff, fun d => ⟨afterData d t, execByte_data ht d, ?_⟩⟩
    rw [← hoff]
    rfl

/-- Settles O60, by induction on the operations: each adds `isDataWrite` to the count modulo `2^DIRTY_W`, and keeps
`DIRTY_W` and that INIT has run. -/
theorem dirtyCountsDataBytes : Obligations.DirtyCountsDataBytes := by
  intro is
  induction is with
  | nil =>
    rintro s t - hfits - hrun
    obtain rfl : s = t := Option.some.inj hrun
    exact (Nat.mod_eq_of_lt hfits).symm
  | cons i is ih =>
    intro s t hinit hfits hno hrun
    obtain ⟨u, hx, hrest⟩ := runOps_cons_some hrun
    obtain ⟨hmiss, hno'⟩ := noHit_cons hno hx
    have hdirty := exec_dirty_mod hx hinit hfits hmiss
    have hp := exec_params hx
    have hfits' : u.dirty < 2 ^ u.params.dirtyW := by
      rw [hdirty, hp]
      exact Nat.mod_lt _ (Nat.two_pow_pos _)
    rw [ih u t (exec_inited hx hinit) hfits' hno' hrest, hp, hdirty, Nat.mod_add_mod, Nat.add_assoc,
      length_filter_isDataWrite_cons]

/-- Settles O25: the first clause is the definition, and the per-bit law gives the last. -/
theorem maskLawPerBit : Obligations.MaskLawPerBit := fun o v m =>
  ⟨rfl, fun _ hk => maskedByte_getLsbD o v m hk, maskedByte_idem o v m⟩

end Sys2Proof

/-! ## BYTE in MasterRead: the master's NAK (43_master_read.md R141) -/

namespace Sys2Proof

open Machine

theorem endByte_of_post {s : State} (hph : s.ph = .post) : endByte s = { s with ph := .pre } := by
  rw [endByte, hph, flipPhase]

/-- Settles O27: with the acknowledge bit of R78 set the table selects BYTE.MR.NAK, and its effect is the pointer reset
and the state Idle, with the line released and the phase inverted. -/
theorem masterNakEndsRead : Obligations.MasterNakEndsRead := by
  intro rx s hinit hsw hst hph hnak
  have hready : byteReady (.byteMrNak rx) s := ⟨hinit, hsw, selected_byteMrNak.2 ⟨hst, hph, hnak⟩⟩
  exact exec_byteMrNak_next.2
    ⟨hready, (endByte_of_post (s := drive .release (goTo .idle (setPtr 0 s))) hph).symm⟩

end Sys2Proof

/-! ## BYTE in Idle and the defensive row (44_idle_defensive.md R150 to R153) -/

namespace Sys2Proof

open Machine

theorem goTo_of_st {x : ProtocolState} {s : State} (hst : s.st = x) : goTo x s = s := by
  rw [goTo, ← hst]

theorem flipPhase_eq_ite (p : Phase) : flipPhase p = if p = .pre then .post else .pre := by
  cases p <;> rfl

/-- What the reserved state codes give: they are left for Idle in either phase (R153). -/
theorem endByte_raiseReject (k : Reject) (s : State) :
    endByte (raiseReject k s) =
      { s with drv := .release, st := .idle, ph := if s.ph = .pre then .post else .pre } := by
  rw [endByte, raiseReject_ph, flipPhase_eq_ite]
  rfl

/-- Settles O30: the table selects a row by the phase alone, and that row's `st <- Idle` changes nothing in Idle. -/
theorem idleIgnoresBytes : Obligations.IdleIgnoresBytes := by
  intro rx s hinit hsw hst
  have hidle : goTo .idle (drive .release s) = drive .release s := goTo_of_st hst
  constructor
  · intro hph
    have hready : byteReady (.byteIdPre rx) s := ⟨hinit, hsw, selected_byteIdPre.2 ⟨hst, hph⟩⟩
    rw [exec_byteIdPre_next.2 ⟨hready, rfl⟩, hidle, endByte_of_pre (s := drive .release s) hph]
    rfl
  · intro hph
    have hready : byteReady (.byteIdPost rx) s := ⟨hinit, hsw, selected_byteIdPost.2 ⟨hst, hph⟩⟩
    rw [exec_byteIdPost_next.2 ⟨hready, rfl⟩, hidle, endByte_of_post (s := drive .release s) hph]
    rfl

/-- Settles O31: each row is selected by the state (BYTE.AM.POST also by the phase), and its effect is the defensive
rejection with the phase inverted. -/
theorem defensiveRowsGiveUp : Obligations.DefensiveRowsGiveUp := by
  intro rx s hinit hsw
  refine ⟨fun hst hph => ?_, fun hst => ?_, fun hst => ?_⟩
  · have hready : byteReady (.byteAmPost rx) s := ⟨hinit, hsw, selected_byteAmPost.2 ⟨hst, hph⟩⟩
    exact exec_byteAmPost_next.2 ⟨hready, (endByte_of_post (s := raiseReject .defensive s) hph).symm⟩
  · have hready : byteReady (.byteIll5 rx) s := ⟨hinit, hsw, selected_byteIll5.2 hst⟩
    exact exec_byteIll5_next.2 ⟨hready, (endByte_raiseReject .defensive s).symm⟩
  · have hready : byteReady (.byteIll67 rx) s := ⟨hinit, hsw, selected_byteIll67.2 hst⟩
    exact exec_byteIll67_next.2 ⟨hready, (endByte_raiseReject .defensive s).symm⟩

end Sys2Proof

/-! ## The host's calls DRAIN and ONGOING (45_host_ops.md R163 to R165) -/

namespace Sys2Proof

open Machine

section

variable {s : State}

theorem dirtyPos_eq_true_iff : dirtyPos s = true ↔ 0 < s.dirty := by
  rw [dirtyPos, decide_eq_true_iff]

theorem dirtyPos_eq_false_iff : dirtyPos s = false ↔ s.dirty = 0 := by
  rw [dirtyPos, decide_eq_false_iff_not, Nat.not_lt, Nat.le_zero]

/-- The condition of DRAIN.HIT (R163), read from the state. -/
theorem selected_ctxOf_drainHit :
    selected (ctxOf s) .drainHit = true ↔ s.st = .masterWrite ∧ 0 < s.dirty ∧ s.stopPending = true := by
  rw [selected_drainHit, ← dirtyPos_eq_true_iff]
  rfl

/-- The condition of DRAIN.MISS (R164), read from the state. -/
theorem selected_ctxOf_drainMiss :
    selected (ctxOf s) .drainMiss = true ↔ s.st ≠ .masterWrite ∨ s.dirty = 0 ∨ s.stopPending = false := by
  rw [selected_drainMiss, ← dirtyPos_eq_false_iff]
  rfl

end

theorem ongoing_eq_decide (x : ProtocolState) : ongoing x = decide (x ≠ .idle ∧ x ≠ .addressMatch) := by
  cases x <;> rfl

/-- Settles O33: MasterWrite is no reserved state, so the host may begin the call, and the table selects DRAIN.HIT. -/
theorem drainHitReportsAndClears : Obligations.DrainHitReportsAndClears := by
  intro s hinit hsw harmed hst hdirty hstop
  have hlive : live s := ⟨hinit, by rw [hst]; rfl⟩
  have hready : hostReady s := ⟨hlive, hsw, harmed⟩
  exact exec_drainHit_next.2 ⟨⟨hready, selected_ctxOf_drainHit.2 ⟨hst, hdirty, hstop⟩⟩, rfl⟩

/-- Settles O34: each of the three ways to miss selects DRAIN.MISS. -/
theorem drainMissReturnsZero : Obligations.DrainMissReturnsZero := by
  intro s hinit hres hsw harmed hmiss
  have hready : hostReady s := ⟨⟨hinit, hres⟩, hsw, harmed⟩
  exact exec_drainMiss_next.2 ⟨⟨hready, selected_ctxOf_drainMiss.2 hmiss⟩, rfl⟩

/-- Settles O39: the call is enabled in every live state, and `ongoing` is the test of the two states. -/
theorem ongoingAnswersFromState : Obligations.OngoingAnswersFromState := by
  intro s hinit hres hsw harmed
  have hready : hostReady s := ⟨⟨hinit, hres⟩, hsw, harmed⟩
  rw [← ongoing_eq_decide]
  exact exec_ongoing_next.2 ⟨hready, rfl⟩

end Sys2Proof

/-! ## Encoding: the decoder and the encoder agree (30_encoding.md R74, R79, R80) -/

namespace Sys2Proof

/-! ### The event word by its fields (R74) -/

@[simp] theorem wordOp_encode (i : Instr) : wordOp (encode i) = i.opcode := Laws.wordOp_eventWord _ _ _

@[simp] theorem wordA_encode (i : Instr) : wordA (encode i) = i.operandA := Laws.wordA_eventWord _ _ _

@[simp] theorem wordB_encode (i : Instr) : wordB (encode i) = i.operandB := Laws.wordB_eventWord _ _ _

/-- A word with the fields of an operation is the operation's word. -/
theorem encode_eq_of_fields {i : Instr} {w : EventWord} (hop : i.opcode = wordOp w) (ha : i.operandA = wordA w)
    (hb : i.operandB = wordB w) : encode i = w := by
  rw [encode, hop, ha, hb, Laws.eventWord_fields]

theorem zeroOperands_eq_instr {a b : Byte} {d : Decoded} {i : Instr} :
    zeroOperands a b d = .instr i ↔ a = 0 ∧ b = 0 ∧ d = .instr i := by
  unfold zeroOperands
  split <;> simp_all

theorem decodeInit_eq_instr {args : Option InitArgs} {i : Instr} :
    decodeInit args = .instr i ↔ ∃ g, args = some g ∧ i = .init g := by
  cases args <;> simp [decodeInit, eq_comm]

/-- The rows of DRAIN by operand `a`: the whole call by its condition, the test, the critical section (R162, R170). -/
theorem decodeDrain_eq_instr {c : Ctx} {a : Byte} {i : Instr} (h : decodeDrain c a = .instr i) :
    (a = 0 ∧ i = if drainHits c then .drainHit else .drainMiss) ∨ (a = 1 ∧ i = .drainT) ∨ (a = 2 ∧ i = .drainC) := by
  unfold decodeDrain at h
  split at h
  case h_1 ha => exact .inl ⟨BitVec.eq_of_toNat_eq ha, (Decoded.instr.inj h).symm⟩
  case h_2 ha => exact .inr (.inl ⟨BitVec.eq_of_toNat_eq ha, (Decoded.instr.inj h).symm⟩)
  case h_3 ha => exact .inr (.inr ⟨BitVec.eq_of_toNat_eq ha, (Decoded.instr.inj h).symm⟩)
  case h_4 => cases h

theorem selected_drainHit_iff_drainHits {c : Ctx} : selected c .drainHit = true ↔ drainHits c = true := by
  rw [selected_drainHit]
  simp [drainHits, and_assoc]

theorem selected_drainMiss_iff_not_drainHits {c : Ctx} :
    selected c .drainMiss = true ↔ drainHits c = false := by
  rw [selected_drainMiss]
  simp [drainHits, Classical.or_iff_not_imp_left]

/-! ### Rows chosen by the operation code alone (R79) -/

/-- The pattern `0xF0` keeps the operation code of a key and drops the state and the phase. -/
theorem rowKey_and_opcodeMask (op : BitVec 4) (st : ProtocolState) (ph : Phase) :
    rowKey op st ph &&& 0xF0 = op ++ (0 : BitVec 4) := by
  cases st <;> cases ph <;> revert op <;> decide

theorem selected_of_opcodePattern {c : Ctx} {i : Instr} (op : BitVec 4) (hop : i.opcode = op)
    (hmask : rowMask i = 0xF0) (hmatch : rowMatch i = op ++ (0 : BitVec 4)) (hcond : rowCond c i = true) :
    selected c i = true := by
  rw [selected_iff, hop, hmask, hmatch]
  exact ⟨rowKey_and_opcodeMask _ _ _, hcond⟩

/-! ### What decodes (R74, R79, U8) -/

section

variable {c : Ctx} {w : EventWord} {args : Option InitArgs} {i : Instr}

/-- What a decoded operation has to do with its word: the fields, the selected row, INIT's arguments. -/
def ReadFrom (c : Ctx) (w : EventWord) (args : Option InitArgs) (i : Instr) : Prop :=
  (i.opcode = wordOp w ∧ i.operandA = wordA w ∧ i.operandB = wordB w) ∧ selected c i = true ∧
    ∀ g, i = .init g → args = some g

theorem readFrom_init (hop : wordOp w = 0) (h : zeroOperands (wordA w) (wordB w) (decodeInit args) = .instr i) :
    ReadFrom c w args i := by
  obtain ⟨ha, hb, h⟩ := zeroOperands_eq_instr.1 h
  obtain ⟨g, hg, rfl⟩ := decodeInit_eq_instr.1 h
  exact ⟨⟨hop.symm, ha.symm, hb.symm⟩, selected_of_opcodePattern 0 rfl rfl rfl rfl,
    fun _ he => Instr.init.inj he ▸ hg⟩

/-- The operations without operands whose row the operation code alone chooses. -/
theorem readFrom_plain (j : Instr) (hj : j ∈ [.start, .scllow, .stop, .ongoing, .abort])
    (hop : (wordOp w).toNat = j.opcode.toNat) (h : zeroOperands (wordA w) (wordB w) (.instr j) = .instr i) :
    ReadFrom c w args i := by
  have hrow : j.operandA = 0 ∧ j.operandB = 0 ∧ selected c j = true ∧ ∀ g, j ≠ .init g := by
    simp only [List.mem_cons, List.not_mem_nil, or_false] at hj
    rcases hj with rfl | rfl | rfl | rfl | rfl
    · exact ⟨rfl, rfl, selected_of_opcodePattern 1 rfl rfl rfl rfl, nofun⟩
    · exact ⟨rfl, rfl, selected_of_opcodePattern 2 rfl rfl rfl rfl, nofun⟩
    · exact ⟨rfl, rfl, selected_of_opcodePattern 4 rfl rfl rfl rfl, nofun⟩
    · exact ⟨rfl, rfl, selected_of_opcodePattern 6 rfl rfl rfl rfl, nofun⟩
    · exact ⟨rfl, rfl, selected_of_opcodePattern 9 rfl rfl rfl rfl, nofun⟩
  obtain ⟨hA, hB, hsel, hinit⟩ := hrow
  obtain ⟨ha, hb, h⟩ := zeroOperands_eq_instr.1 h
  obtain rfl := Decoded.instr.inj h
  exact ⟨⟨(BitVec.eq_of_toNat_eq hop).symm, hA.trans ha.symm, hB.trans hb.symm⟩, hsel, fun g he => absurd he (hinit g)⟩

theorem readFrom_byte (hop : wordOp w = 3)
    (h : zeroOperands 0 (wordB w) (.instr (decodeByte c (wordA w))) = .instr i) : ReadFrom c w args i := by
  obtain ⟨-, hb, h⟩ := zeroOperands_eq_instr.1 h
  obtain rfl := Decoded.instr.inj h
  obtain ⟨hop', ha', hb', hbyte⟩ := Machine.decodeByte_fields c (wordA w)
  refine ⟨⟨hop'.trans hop.symm, ha', hb'.trans hb.symm⟩, Machine.selected_decodeByte c _, fun g he => ?_⟩
  rw [he] at hbyte
  cases hbyte

theorem readFrom_drain (hop : wordOp w = 5)
    (h : zeroOperands 0 (wordB w) (decodeDrain c (wordA w)) = .instr i) : ReadFrom c w args i := by
  obtain ⟨-, hb, h⟩ := zeroOperands_eq_instr.1 h
  obtain ⟨ha, rfl⟩ | ⟨ha, rfl⟩ | ⟨ha, rfl⟩ := decodeDrain_eq_instr h
  · split
    · exact ⟨⟨hop.symm, ha.symm, hb.symm⟩, selected_drainHit_iff_drainHits.2 ‹_›, nofun⟩
    · exact ⟨⟨hop.symm, ha.symm, hb.symm⟩, selected_drainMiss_iff_not_drainHits.2 (eq_false_of_ne_true ‹_›), nofun⟩
  · exact ⟨⟨hop.symm, ha.symm, hb.symm⟩, selected_of_opcodePattern 5 rfl rfl rfl rfl, nofun⟩
  · exact ⟨⟨hop.symm, ha.symm, hb.symm⟩, selected_of_opcodePattern 5 rfl rfl rfl rfl, nofun⟩

theorem readFrom_of_decode (h : decode c w args = .instr i) : ReadFrom c w args i := by
  unfold decode at h
  split at h <;> rename_i hop
  case h_1 => exact readFrom_init (BitVec.eq_of_toNat_eq hop) h
  case h_2 => exact readFrom_plain .start (by simp) hop h
  case h_3 => exact readFrom_plain .scllow (by simp) hop h
  case h_4 => exact readFrom_byte (BitVec.eq_of_toNat_eq hop) h
  case h_5 => exact readFrom_plain .stop (by simp) hop h
  case h_6 => exact readFrom_drain (BitVec.eq_of_toNat_eq hop) h
  case h_7 => exact readFrom_plain .ongoing (by simp) hop h
  case h_8 =>
    obtain ⟨-, hb, h⟩ := zeroOperands_eq_instr.1 h
    obtain rfl := Decoded.instr.inj h
    exact ⟨⟨(BitVec.eq_of_toNat_eq hop).symm, rfl, hb.symm⟩, selected_of_opcodePattern 7 rfl rfl rfl rfl, nofun⟩
  case h_9 =>
    obtain rfl := Decoded.instr.inj h
    exact ⟨⟨(BitVec.eq_of_toNat_eq hop).symm, rfl, rfl⟩, selected_of_opcodePattern 8 rfl rfl rfl rfl, nofun⟩
  case h_10 => exact readFrom_plain .abort (by simp) hop h
  case h_11 => cases h

/-! ### Encoding a selected row and decoding it (R74, R79) -/

theorem encode_of_isByte (hb : Machine.isByte i = true) : encode i = eventWord 3 i.operandA 0 := by
  cases i with
  | init _ | start | scllow | abort | stop | drainHit | drainMiss | drainT | drainC | ongoing | hrd _
  | hwr _ _ => cases hb
  | _ => rfl

/-- The row the table selects for a word is the one the decoder reads from it. -/
theorem decode_encode_of_selected (h : selected c i = true) : decode c (encode i) i.args = .instr i := by
  cases hb : Machine.isByte i with
  | true => rw [encode_of_isByte hb, decode_byteWord, decodeByte_of_selected hb h]
  | false =>
    cases i with
    | drainHit =>
      have hhit := selected_drainHit_iff_drainHits.1 h
      simp [decode, Instr.opcode, Instr.operandA, Instr.operandB, zeroOperands, decodeDrain, hhit]
    | drainMiss =>
      have hhit := selected_drainMiss_iff_not_drainHits.1 h
      simp [decode, Instr.opcode, Instr.operandA, Instr.operandB, zeroOperands, decodeDrain, hhit]
    | byteAmNak _ | byteAmRd _ | byteAmWr _ | byteAmPost _ | byteRaNak _ | byteRaLoad _ | byteRaPost _
    | byteMrPre _ | byteMrNak _ | byteMrAck _ | byteMwData _ | byteMwPost _ | byteIdPre _ | byteIdPost _
    | byteIll5 _ | byteIll67 _ => cases hb
    | _ =>
      simp [decode, Instr.opcode, Instr.operandA, Instr.operandB, Instr.args, zeroOperands, decodeInit, decodeDrain]

end

/-! ### The obligations -/

/-- Settles O2: `decode_encode_of_selected`; that the row is selected already says the operand is well formed. -/
theorem decodeEncodeRoundTrip : Obligations.DecodeEncodeRoundTrip := fun _ _ _ hsel =>
  decode_encode_of_selected hsel

/-- Settles O3: `readFrom_of_decode`, its fields put together to the word. -/
theorem decodeIsSound : Obligations.DecodeIsSound := by
  intro c w args i h
  obtain ⟨⟨hop, ha, hb⟩, hsel, hinit⟩ := readFrom_of_decode h
  exact ⟨encode_eq_of_fields hop ha hb, hsel, hinit⟩

/-- Settles O4: two selected operations with one word and one argument are both what the decoder reads from it. -/
theorem selectedRowIsUnique : Obligations.SelectedRowIsUnique := by
  intro c i j hword hargs hi hj
  have hread := decode_encode_of_selected hi
  rw [hword, hargs, decode_encode_of_selected hj] at hread
  exact (Decoded.instr.inj hread).symm

/-- Settles O1: each word is evaluated by the decoder. -/
theorem decodesSpecWords : Obligations.DecodesSpecWords := by
  refine ⟨?_, ?_, ?_, ?_, ?_, ?_, ?_, ?_, ?_, ?_, ?_, ?_, ?_, ?_, ?_, ?_, ?_, ?_, ?_⟩ <;> rfl

end Sys2Proof

/-! ## The invariants of the machine (10_state.md R36) -/

namespace Sys2Proof

open Machine

/-! ### Assignments that keep the invariants -/

section

variable {s t : State}

theorem machineInv_storeReg (hs : MachineInv s) {i : Byte} (hi : i.toNat < s.n.toNat) (v : Byte) :
    MachineInv (storeReg i v s) :=
  { hs with
    regForm := Memory.wf_write hs.regForm _ v
    regRange := Memory.range_write hs.regRange hi v }

theorem machineInv_countWrite (hs : MachineInv s) : MachineInv (countWrite s) :=
  { hs with dirtyFits := Nat.mod_lt _ (Nat.two_pow_pos _) }

theorem machineInv_giveResult (hs : MachineInv s) (r : HostResult) : MachineInv (giveResult r s) :=
  { hs with }

theorem machineInv_stopPending (hs : MachineInv s) (b : Bool) : MachineInv { s with stopPending := b } :=
  { hs with }

theorem machineInv_armed (hs : MachineInv s) {b : Bool} (hb : b = true → s.params.drainAtomicity = .inner) :
    MachineInv { s with armed := b } :=
  { hs with armedInner := hb }

/-- A DRAIN that hits leaves the drive as it is, so no register byte may be driven where DRAIN is one step. -/
theorem machineInv_drainEffect (hs : MachineInv s) (hsw : s.sw = false)
    (hdrv : s.params.drainAtomicity = .whole → ∀ v, s.drv ≠ .byte v) : MachineInv (drainEffect s) :=
  { hs with
    fiveStates := rfl
    dirtyFits := Nat.two_pow_pos _
    byteOnlyInRead := fun hw v hv => absurd hv (hdrv hw v)
    startWait := fun h => absurd (hsw.symm.trans h) nofun }

/-- The common form of a BYTE: state, drive and pointer are written, and the phase inverts (R111). -/
theorem machineInv_endByte (hs : MachineInv s) (hsw : s.sw = false) {x : ProtocolState} {d : Drive} {o : Byte}
    (hx : x.isReserved = false) (ho : o.toNat < s.n.toNat) (hack : d = .ackLow → s.ph = .pre)
    (hbyte : ∀ v, d = .byte v → x = .masterRead) :
    MachineInv (endByte { s with st := x, drv := d, off := o }) :=
  { hs with
    ptr := ho
    fiveStates := hx
    byteOnlyInRead := fun _ => hbyte
    ackOnlyInPost := fun hd => congrArg flipPhase (hack hd)
    startWait := fun h => absurd (hsw.symm.trans h) nofun }

theorem machineInv_startEffect (hs : MachineInv s) (hbyte : s.byteWaits = none) : MachineInv (startEffect s) :=
  { hs with
    fiveStates := rfl
    byteOnlyInRead := nofun
    ackOnlyInPost := nofun
    startWait := fun _ => ⟨rfl, rfl, rfl⟩
    noByteInStartWait := fun _ => hbyte }

theorem machineInv_leaveStartWait (hs : MachineInv s) : MachineInv { s with sw := false } :=
  { hs with
    startWait := nofun
    noByteInStartWait := nofun }

theorem machineInv_abort (hs : MachineInv s) : MachineInv { s with st := .idle, sw := false, drv := .release } :=
  { hs with
    fiveStates := rfl
    byteOnlyInRead := nofun
    ackOnlyInPost := nofun
    startWait := nofun
    noByteInStartWait := nofun }

theorem length_maskBytes_le (g : InitArgs) : (maskBytes g).length ≤ g.n := by
  unfold maskBytes
  split
  · exact Nat.zero_le _
  · exact List.length_take_le _ _

theorem machineInv_afterInit {g : InitArgs} (hg : configLegal g = true) (hp : paramsLegal s.params = true) :
    MachineInv (afterInit g s) := by
  obtain ⟨hn, hlow, hhigh⟩ := configLegal_n hg
  have hfile (vs : List Byte) (hlen : vs.length ≤ g.n) :
      ∀ c ∈ Memory.ofBytes 0 vs, c.1 < (BitVec.ofNat 9 g.n).toNat := fun c hc => by
    have := Memory.range_ofBytes 0 vs c hc
    omega
  exact
    { ptr := hn ▸ hlow
      size := hn ▸ hhigh
      fiveStates := rfl
      widthLegal := hp
      dirtyFits := Nat.two_pow_pos _
      byteOnlyInRead := nofun
      ackOnlyInPost := nofun
      startWait := nofun
      noByteInStartWait := nofun
      armedInner := nofun
      regForm := Memory.wf_ofBytes _ _
      regRange := hfile _ (List.length_take_le _ _)
      maskForm := Memory.wf_ofBytes _ _
      maskRange := hfile _ (length_maskBytes_le g) }

theorem machineInv_raiseNotifications (hs : MachineInv s) (r : Raised) : MachineInv (raiseNotifications r s) :=
  { hs with
    noByteInStartWait := fun hsw => (if_pos hsw).trans (hs.noByteInStartWait hsw) }

/-! ### Every operation keeps the invariants -/

/-- The rows that reject: Idle, line released. -/
theorem machineInv_reject (hs : MachineInv s) (hsw : s.sw = false) (k : Reject) :
    MachineInv (endByte (raiseReject k s)) :=
  machineInv_endByte (x := .idle) (d := .release) hs hsw rfl hs.ptr nofun nofun

/-- The rows that only release the line. -/
theorem machineInv_release (hs : MachineInv s) (hsw : s.sw = false) : MachineInv (endByte (drive .release s)) :=
  machineInv_endByte (d := .release) hs hsw hs.fiveStates hs.ptr nofun nofun

theorem machineInv_idle (hs : MachineInv s) (hsw : s.sw = false) :
    MachineInv (endByte (goTo .idle (drive .release s))) :=
  machineInv_endByte (x := .idle) (d := .release) hs hsw rfl hs.ptr nofun nofun

/-- START is run only where no byte boundary waits beside it: it was dropped, or delivered before (R183, R184). -/
theorem exec_keeps_machineInv {i : Instr} (hs : MachineInv s) (hbyte : i = .start → s.byteWaits = none)
    (h : exec i s = .next t) : MachineInv t := by
  revert hs hbyte
  apply exec_inversion (fun i s t => MachineInv s → (i = .start → s.byteWaits = none) → MachineInv t) (h := h)
  case h_init => exact fun s g ⟨_, hg, hp⟩ _ _ => machineInv_afterInit hg hp
  case h_start =>
    intro s _ hs hbyte
    split
    · exact machineInv_stopPending hs false
    · exact machineInv_startEffect hs (hbyte rfl)
  case h_scllow => exact fun s _ hs _ => machineInv_leaveStartWait hs
  case h_abort => exact fun s _ hs _ => machineInv_abort hs
  case h_byteAmNak | h_byteAmPost | h_byteRaNak | h_byteIll5 | h_byteIll67 =>
    exact fun s _ ⟨_, hsw, _⟩ hs _ => machineInv_reject hs hsw _
  case h_byteRaPost | h_byteMrPre | h_byteMwPost => exact fun s _ ⟨_, hsw, _⟩ hs _ => machineInv_release hs hsw
  case h_byteIdPre | h_byteIdPost => exact fun s _ ⟨_, hsw, _⟩ hs _ => machineInv_idle hs hsw
  case h_byteAmRd =>
    rintro s rx ⟨_, hsw, hsel⟩ hs -
    obtain ⟨-, hph, -⟩ := selected_byteAmRd.1 hsel
    exact machineInv_endByte (x := .masterRead) (d := .ackLow) hs hsw rfl hs.ptr (fun _ => hph) nofun
  case h_byteAmWr =>
    rintro s rx ⟨_, hsw, hsel⟩ hs -
    obtain ⟨-, hph, -⟩ := selected_byteAmWr.1 hsel
    exact machineInv_endByte (x := .registerAddress) (d := .ackLow) (o := 0) hs hsw rfl
      (Nat.zero_lt_of_lt hs.ptr) (fun _ => hph) nofun
  case h_byteRaLoad =>
    rintro s rx ⟨_, hsw, hsel⟩ hs -
    obtain ⟨-, hph, hrx⟩ := selected_byteRaLoad.1 hsel
    exact machineInv_endByte (x := .masterWrite) (d := .ackLow) (o := rx) hs hsw rfl hrx (fun _ => hph) nofun
  case h_byteMrNak =>
    rintro s rx ⟨_, hsw, _⟩ hs -
    exact machineInv_endByte (x := .idle) (d := .release) (o := 0) hs hsw rfl (Nat.zero_lt_of_lt hs.ptr) nofun nofun
  case h_byteMrAck =>
    rintro s rx ⟨_, hsw, hsel⟩ _ hs -
    obtain ⟨hst, -⟩ := selected_byteMrAck.1 hsel
    exact machineInv_endByte (d := .byte _) (o := nextPtr s.n s.off) hs hsw hs.fiveStates
      (nextPtr_lt (Nat.zero_lt_of_lt hs.ptr)) nofun (fun _ _ => hst)
  case h_byteMwData =>
    rintro s rx ⟨_, hsw, hsel⟩ hoff hs -
    obtain ⟨hst, hph⟩ := selected_byteMwData.1 hsel
    have hs' := machineInv_countWrite (machineInv_storeReg hs hoff (maskedByte (regAt s s.off) rx (wmask s s.off)))
    exact machineInv_endByte (d := .ackLow) (o := nextPtr s.n s.off) hs' hsw hs.fiveStates
      (nextPtr_lt (Nat.zero_lt_of_lt hs.ptr)) (fun _ => hph) nofun
  case h_stop => exact fun s _ hs _ => machineInv_stopPending hs true
  case h_drainHit =>
    rintro s ⟨⟨_, hsw, _⟩, hsel⟩ hs -
    obtain ⟨hst, -⟩ := selected_ctxOf_drainHit.1 hsel
    refine machineInv_drainEffect hs hsw fun hw v hv => ?_
    rw [hs.byteOnlyInRead hw v hv] at hst
    cases hst
  case h_drainMiss | h_ongoing => exact fun s _ hs _ => machineInv_giveResult hs _
  case h_drainT =>
    rintro s ⟨_, hinner⟩ hs -
    split
    · exact machineInv_giveResult (machineInv_armed (b := true) hs fun _ => hinner) .armed
    · exact machineInv_giveResult hs _
  case h_drainC =>
    rintro s ⟨_, hsw, _, hinner⟩ hs -
    have hs' : MachineInv { s with armed := false } := machineInv_armed hs nofun
    split
    · exact machineInv_drainEffect hs' hsw fun hw => absurd (hinner.symm.trans hw) nofun
    · exact machineInv_giveResult hs' _
  case h_hrd => exact fun s j _ hs _ => machineInv_giveResult hs _
  case h_hwr => exact fun s j v ⟨_, hj, _⟩ hs _ => machineInv_storeReg hs hj v

/-! ### What a step can do (R183, R184) -/

theorem fetch_of_startWaits (h : s.startWaits = true) :
    fetch s = .run .start { s with startWaits := false, byteWaits := none } Raised.quiet := by
  simp [fetch, h]

theorem fetch_of_byteWaits {rx : Byte} (h : s.startWaits = false) (hbyte : s.byteWaits = some rx)
    (hsw : s.sw = false) :
    fetch s = .run (decodeByte (ctxOf s) rx) { s with byteWaits := none } Raised.quiet := by
  simp [fetch, h, hbyte, hsw]

/-- With nothing to deliver, a byte boundary behind the start wait included, the next entry of the run is due. -/
theorem fetch_of_noDelivery (h : s.startWaits = false) (hbyte : s.byteWaits = none ∨ s.sw = true) :
    fetch s = fetchArrival s := by
  unfold fetch
  rcases hbyte with hbyte | hsw
  · simp [h, hbyte]
  · cases s.byteWaits <;> simp [h, hsw]

/-- What `fetch` finds to run: the start notification, the byte boundary, or the next entry of the run. -/
theorem fetch_run_cases {i : Instr} {r : Raised} (h : fetch s = .run i t r) :
    (i = .start ∧ t = { s with startWaits := false, byteWaits := none } ∧ r = Raised.quiet) ∨
    (s.sw = false ∧ ∃ rx, i = decodeByte (ctxOf s) rx ∧ t = { s with byteWaits := none } ∧ r = Raised.quiet) ∨
    ((s.byteWaits = none ∨ s.sw = true) ∧ ∃ (e : Arrival) (rest : List Arrival), s.trace = e :: rest ∧
      decode (ctxOf s) e.word e.args = .instr i ∧ t = { s with trace := rest, scl := e.scl } ∧ r = e.during) := by
  by_cases hstart : s.startWaits = true
  · rw [fetch_of_startWaits hstart] at h
    obtain ⟨rfl, rfl, rfl⟩ := Fetched.run.inj h
    exact .inl ⟨rfl, rfl, rfl⟩
  have hstart := eq_false_of_ne_true hstart
  by_cases hbyte : s.byteWaits = none ∨ s.sw = true
  · rw [fetch_of_noDelivery hstart hbyte] at h
    unfold fetchArrival at h
    split at h
    · split at h <;> cases h
    · have htrace := ‹s.trace = _ :: _›
      dsimp only at h
      split at h
      · obtain ⟨rfl, rfl, rfl⟩ := Fetched.run.inj h
        exact .inr (.inr ⟨hbyte, _, _, htrace, ‹_›, rfl, rfl⟩)
      · cases h
  · obtain ⟨hne, hsw⟩ := not_or.1 hbyte
    obtain ⟨rx, hrx⟩ := Option.ne_none_iff_exists'.1 hne
    have hsw := eq_false_of_ne_true hsw
    rw [fetch_of_byteWaits hstart hrx hsw] at h
    obtain ⟨rfl, rfl, rfl⟩ := Fetched.run.inj h
    exact .inr (.inl ⟨hsw, rx, rfl, rfl, rfl⟩)

/-- A step that goes on found nothing to run, or ran what `fetch` found; what was raised meanwhile then waits. -/
theorem step_next_cases (h : step s = .next t) :
    t = s ∨ ∃ i u v r, fetch s = .run i u r ∧ exec i u = .next v ∧ t = if u.inited then raiseNotifications r v else v := by
  unfold step at h
  split at h
  case h_1 i u r hf =>
    unfold finish at h
    split at h
    case h_1 v hv => exact .inr ⟨i, u, v, r, hf, hv, (Host.Outcome.next.inj h).symm⟩
    case h_2 | h_3 => cases h
  case h_2 => exact .inl (Host.Outcome.next.inj h).symm
  case h_3 | h_4 => cases h

/-- The state an operation is run in meets the invariants, and START finds no byte boundary beside it. -/
theorem machineInv_of_fetch {i : Instr} {r : Raised} (hs : MachineInv s) (h : fetch s = .run i t r) :
    MachineInv t ∧ (i = .start → t.byteWaits = none) := by
  obtain ⟨rfl, rfl, -⟩ | ⟨-, rx, rfl, rfl, -⟩ | ⟨hbyte, e, rest, -, -, rfl, -⟩ := fetch_run_cases h
  · exact ⟨{ hs with noByteInStartWait := fun _ => rfl }, fun _ => rfl⟩
  · exact ⟨{ hs with noByteInStartWait := fun _ => rfl }, fun _ => rfl⟩
  · exact ⟨{ hs with }, fun _ => hbyte.elim id hs.noByteInStartWait⟩

theorem step_keeps_machineInv (hs : MachineInv s) (h : step s = .next t) : MachineInv t := by
  obtain rfl | ⟨i, u, v, r, hf, hx, rfl⟩ := step_next_cases h
  · exact hs
  · obtain ⟨hu, hbyte⟩ := machineInv_of_fetch hs hf
    have hv := exec_keeps_machineInv hu hbyte hx
    split
    · exact machineInv_raiseNotifications hv r
    · exact hv

end

/-! ### The obligations -/

/-- Settles O45: the fetched state meets the invariants, every operation keeps them, and so does what waits after it. -/
theorem stepKeepsInvariants : Obligations.StepKeepsInvariants := fun _ _ => step_keeps_machineInv

/-- Settles O44: every clause is about the literal values of `State.reset`. -/
theorem resetMeetsInvariants : Obligations.ResetMeetsInvariants where
  ptr := by decide
  size := by decide
  fiveStates := rfl
  widthLegal := rfl
  dirtyFits := by decide
  byteOnlyInRead := nofun
  ackOnlyInPost := nofun
  startWait := nofun
  noByteInStartWait := nofun
  armedInner := nofun
  regForm := by decide
  regRange := nofun
  maskForm := by decide
  maskRange := nofun

end Sys2Proof

/-! ## Steps: what is run, and words that do not decode (30_encoding.md R80, 60_exceptions.md R183, R184) -/

namespace Sys2Proof

open Machine

section

variable {s t : State}

/-! ### What a step runs -/

theorem step_of_fetch_run {i : Instr} {r : Raised} (h : fetch s = .run i t r) : step s = finish t r (exec i t) := by
  rw [step, h]

/-- A notification that is delivered has nothing raised beside it, so the step is the operation. -/
theorem step_of_quiet_run {i : Instr} {u : State} (hf : fetch s = .run i t Raised.quiet) (hx : exec i t = .next u) :
    step s = .next u := by
  have hquiet : raiseNotifications Raised.quiet u = u := by
    simp [raiseNotifications, Raised.quiet]
  rw [step_of_fetch_run hf, hx, finish, hquiet, ite_self]

section

variable {e : Arrival} {rest : List Arrival} (hstart : s.startWaits = false)
  (hbyte : s.byteWaits = none ∨ s.sw = true) (htrace : s.trace = e :: rest)

include hstart hbyte htrace

theorem fetch_of_decode {i : Instr} (hi : decode (ctxOf s) e.word e.args = .instr i) :
    fetch s = .run i { s with trace := rest, scl := e.scl } e.during := by
  have hi' : decode (ctxOf { s with trace := rest, scl := e.scl }) e.word e.args = .instr i := hi
  rw [fetch_of_noDelivery hstart hbyte, fetchArrival, htrace]
  simp only [hi']

theorem step_of_illFormed {d : DecodeError} (hd : decode (ctxOf s) e.word e.args = .illFormed d) :
    step s = .refused (.illFormed d) := by
  have hd' : decode (ctxOf { s with trace := rest, scl := e.scl }) e.word e.args = .illFormed d := hd
  rw [step, fetch_of_noDelivery hstart hbyte, fetchArrival, htrace]
  simp only [hd']

end

/-! ### Words that do not decode (R80, U8) -/

section

variable {c : Ctx} {w : EventWord} {args : Option InitArgs}

theorem zeroOperands_of_ne {a b : Byte} (h : a ≠ 0 ∨ b ≠ 0) (d : Decoded) :
    zeroOperands a b d = .illFormed .unusedOperand :=
  if_neg fun ⟨ha, hb⟩ => h.elim (· ha) (· hb)

theorem decodeDrain_of_two_lt {a : Byte} (h : 2 < a.toNat) : decodeDrain c a = .illFormed .drainForm := by
  unfold decodeDrain
  split
  case h_4 => rfl
  all_goals omega

theorem decode_reservedOpcode (h : 10 ≤ (wordOp w).toNat) : decode c w args = .illFormed .reservedOpcode := by
  unfold decode
  split
  case h_11 => rfl
  all_goals omega

theorem decode_drainForm (hop : wordOp w = 5) (hb : wordB w = 0) (ha : 2 < (wordA w).toNat) :
    decode c w args = .illFormed .drainForm := by
  simp [decode, hop, hb, zeroOperands, decodeDrain_of_two_lt ha]

theorem decode_unusedB (hop : wordOp w = 3 ∨ wordOp w = 5 ∨ wordOp w = 7) (hb : wordB w ≠ 0) :
    decode c w args = .illFormed .unusedOperand := by
  rcases hop with hop | hop | hop <;> simp only [decode, hop] <;> exact zeroOperands_of_ne (.inr hb) _

theorem decode_unusedOperands (hop : wordOp w ∈ [0, 1, 2, 4, 6, 9]) (hab : wordA w ≠ 0 ∨ wordB w ≠ 0) :
    decode c w args = .illFormed .unusedOperand := by
  simp only [List.mem_cons, List.not_mem_nil, or_false] at hop
  rcases hop with hop | hop | hop | hop | hop | hop <;> simp only [decode, hop] <;> exact zeroOperands_of_ne hab _

end

end

/-! ### The obligations -/

/-- Settles O7: `fetch` finds the decoded operation, and `finish` adds what was raised meanwhile. -/
theorem stepRunsDecodedOperation : Obligations.StepRunsDecodedOperation := by
  intro s e rest i hstart hbyte htrace hi
  rw [step_of_fetch_run (fetch_of_decode hstart hbyte htrace hi)]
  refine ⟨fun t ht => ?_, fun f hf => ?_, fun r hr => ?_⟩
  · rw [ht]
    rfl
  · rw [hf]
    rfl
  · rw [hr]
    rfl

/-- Settles O8: each notification is what `fetch` finds, with nothing raised beside it. -/
theorem waitingNotificationsAreDelivered : Obligations.WaitingNotificationsAreDelivered :=
  ⟨fun _ _ hstart hx => step_of_quiet_run (fetch_of_startWaits hstart) hx,
    fun _ _ _ hstart hbyte hsw hx => step_of_quiet_run (fetch_of_byteWaits hstart hbyte hsw) hx⟩

/-- Settles O9: with an empty run `fetch` answers that nothing arrives or that the wait is stuck. -/
theorem nothingArrivesLeavesState : Obligations.NothingArrivesLeavesState := by
  intro s hstart hbyte htrace
  rw [step, fetch_of_noDelivery hstart (.inl hbyte), fetchArrival, htrace]
  cases s.sw <;> cases s.scl <;> cases s.params.startWaitAbort <;> rfl

/-- Settles O10: each shape of word has its decoding error, and the step refuses with it. -/
theorem illFormedWordsAreRefused : Obligations.IllFormedWordsAreRefused := by
  intro s e rest hstart hbyte htrace
  have hstep {d : DecodeError} : decode (ctxOf s) e.word e.args = .illFormed d → step s = .refused (.illFormed d) :=
    step_of_illFormed hstart (.inl hbyte) htrace
  exact ⟨fun hop => hstep (decode_reservedOpcode hop), fun hop hb ha => hstep (decode_drainForm hop hb ha),
    fun hop hb => hstep (decode_unusedB hop hb), fun hop hab => hstep (decode_unusedOperands hop hab)⟩

end Sys2Proof

/-! ## When an operation completes, is refused, or faults (40_start.md to 45_host_ops.md, 93_implementation_defined.md) -/

namespace Sys2Proof

open Machine

section

variable {i : Instr} {s t : State}

/-! ### The gates (R103, R110, R200, U7) -/

/-- The gate an operation passes before anything else; INIT passes none. -/
def gate (s : State) : Instr → Option Refusal
  | .init _ => none
  | .start | .scllow | .abort | .stop => eventGate s
  | .drainC => threadGate s
  | .drainHit | .drainMiss | .drainT | .ongoing | .hrd _ | .hwr _ _ => hostGate s
  | .byteAmNak rx => byteGate (.byteAmNak rx) s
  | .byteAmRd rx => byteGate (.byteAmRd rx) s
  | .byteAmWr rx => byteGate (.byteAmWr rx) s
  | .byteAmPost rx => byteGate (.byteAmPost rx) s
  | .byteRaNak rx => byteGate (.byteRaNak rx) s
  | .byteRaLoad rx => byteGate (.byteRaLoad rx) s
  | .byteRaPost rx => byteGate (.byteRaPost rx) s
  | .byteMrPre rx => byteGate (.byteMrPre rx) s
  | .byteMrNak rx => byteGate (.byteMrNak rx) s
  | .byteMrAck rx => byteGate (.byteMrAck rx) s
  | .byteMwData rx => byteGate (.byteMwData rx) s
  | .byteMwPost rx => byteGate (.byteMwPost rx) s
  | .byteIdPre rx => byteGate (.byteIdPre rx) s
  | .byteIdPost rx => byteGate (.byteIdPost rx) s
  | .byteIll5 rx => byteGate (.byteIll5 rx) s
  | .byteIll67 rx => byteGate (.byteIll67 rx) s

/-- What the gate refuses, `exec` refuses. -/
theorem exec_refused_of_gate {r : Refusal} (h : gate s i = some r) : exec i s = .refused r := by
  cases i with
  | init _ => cases h
  | _ =>
    simp only [gate] at h
    simp only [exec, execStart, execScllow, execAbort, execByteAmNak, execByteAmRd, execByteAmWr, execByteAmPost,
      execByteRaNak, execByteRaLoad, execByteRaPost, execByteMrPre, execByteMrNak, execByteMrAck, execByteMwData,
      execByteMwPost, execByteIdPre, execByteIdPost, execByteIll5, execByteIll67, execStop, execDrainHit,
      execDrainMiss, execDrainT, execDrainC, execOngoing, execHrd, execHwr, h]

theorem gate_of_isByte (hb : isByte i = true) : gate s i = byteGate i s := by
  cases i with
  | init _ | start | scllow | abort | stop | drainHit | drainMiss | drainT | drainC | ongoing | hrd _
  | hwr _ _ => cases hb
  | _ => rfl

/-- Every operation but INIT and BYTE passes `eventGate` first. -/
theorem gate_of_eventGate {r : Refusal} (hb : isByte i = false) (hinit : ∀ g, i ≠ .init g)
    (h : eventGate s = some r) : gate s i = some r := by
  have hthread : threadGate s = some r := by rw [threadGate, h]
  have hhost : hostGate s = some r := by rw [hostGate, hthread]
  cases i with
  | init g => exact absurd rfl (hinit g)
  | start | scllow | abort | stop => exact h
  | drainC => exact hthread
  | drainHit | drainMiss | drainT | ongoing | hrd _ | hwr _ _ => exact hhost
  | _ => cases hb

theorem gate_notInited (hs : s.inited = false) (hinit : ∀ g, i ≠ .init g) : gate s i = some .notInitialised := by
  cases hb : isByte i with
  | true => simp [gate_of_isByte hb, byteGate, hs]
  | false => exact gate_of_eventGate hb hinit (by simp [eventGate, hs])

theorem gate_reserved (hs : s.inited = true) (hres : s.st.isReserved = true) (hb : isByte i = false)
    (hinit : ∀ g, i ≠ .init g) : gate s i = some .reservedState :=
  gate_of_eventGate hb hinit (by simp [eventGate, hs, hres])

/-- In the start wait no BYTE and no host call passes (R103). -/
theorem gate_startWait (hsw : s.sw = true) (hi : isByte i = true ∨ isHostCall i = true) : ∃ r, gate s i = some r := by
  have hthread : threadGate s ≠ none := fun h => by simp [(threadGate_none.1 h).2] at hsw
  have hhost : hostGate s ≠ none := fun h => by
    obtain ⟨-, h, -⟩ := hostGate_none.1 h
    simp [h] at hsw
  rw [← Option.ne_none_iff_exists']
  rcases hi with hb | hc
  · rw [gate_of_isByte hb, ne_eq, byteGate_none]
    rintro ⟨-, h, -⟩
    simp [h] at hsw
  · cases i with
    | drainC => exact hthread
    | drainHit | drainMiss | drainT | ongoing | hrd _ | hwr _ _ => exact hhost
    | _ => cases hc

/-! ### Completion -/

theorem ongoing_eq_false_iff {x : ProtocolState} : ongoing x = false ↔ x = .idle ∨ x = .addressMatch := by
  rw [ongoing_eq_decide, decide_eq_false_iff_not, not_and_or, not_not, not_not]

theorem exists_exec_next_of_enabled (hoff : s.off.toNat < s.n.toNat) (h : enabled s i) : ∃ t, exec i s = .next t := by
  cases hb : isByte i with
  | true => exact exists_exec_next_of_byteReady hb hoff ((enabled_iff_byteReady hb).1 h)
  | false =>
    cases i with
    | init g => exact ⟨_, exec_init_next.2 ⟨h, rfl⟩⟩
    | start => exact ⟨_, exec_start_next.2 ⟨h, rfl⟩⟩
    | scllow => exact ⟨_, exec_scllow_next.2 ⟨h, rfl⟩⟩
    | abort => exact ⟨_, exec_abort_next.2 ⟨h, rfl⟩⟩
    | stop => exact ⟨_, exec_stop_next.2 ⟨h, rfl⟩⟩
    | drainHit => exact ⟨_, exec_drainHit_next.2 ⟨h, rfl⟩⟩
    | drainMiss => exact ⟨_, exec_drainMiss_next.2 ⟨h, rfl⟩⟩
    | drainT => exact ⟨_, exec_drainT_next.2 ⟨h, rfl⟩⟩
    | drainC =>
      obtain ⟨hlive, hsw, harmed⟩ := h
      exact ⟨_, exec_drainC_next.2 ⟨⟨⟨hlive, hsw⟩, harmed⟩, rfl⟩⟩
    | ongoing => exact ⟨_, exec_ongoing_next.2 ⟨h, rfl⟩⟩
    | hrd j => exact ⟨_, exec_hrd_next.2 ⟨h, rfl⟩⟩
    | hwr j v =>
      obtain ⟨hready, hj, hst⟩ := h
      exact ⟨_, exec_hwr_next.2 ⟨⟨hready, hj, ongoing_eq_false_iff.2 hst⟩, rfl⟩⟩
    | _ => cases hb

/-! ### Faults (R103, U4) -/

theorem exec_scllow_startWait (hlive : live s) (hsw : s.sw = true) (hscl : s.scl = true) :
    exec .scllow s = if s.params.startWaitAbort then .refused .clockHigh else .fault .startWait := by
  show execScllow s = _
  simp [execScllow, eventGate_none.2 hlive, hsw, hscl]

/-- SCLLOW faults in the start wait that cannot end; the two bus accesses fault outside the register file. -/
theorem exec_fault_cases {f : Fault} (h : exec i s = .fault f) :
    (f = .startWait ∧ i = .scllow ∧ s.sw = true ∧ s.scl = true ∧ s.params.startWaitAbort = false) ∨
    ¬ s.off.toNat < s.n.toNat := by
  cases i with
  | scllow =>
    simp only [exec, execScllow] at h
    split at h
    · cases h
    split at h
    · cases h
    have hsw : s.sw = true := by simpa using ‹¬ (!s.sw) = true›
    split at h
    · split at h
      · cases h
      · exact .inl ⟨(Host.Outcome.fault.inj h).symm, rfl, hsw, ‹_›, eq_false_of_ne_true ‹_›⟩
    · cases h
  | byteMrAck rx =>
    simp only [exec, execByteMrAck] at h
    split at h
    · cases h
    split at h
    · cases h
    · exact .inr fun hoff => ‹¬ _› (indexOk_iff.2 (loadPtr_lt hoff))
  | byteMwData rx =>
    simp only [exec, execByteMwData] at h
    split at h
    · cases h
    split at h
    · cases h
    · exact .inr fun hoff => ‹¬ _› (indexOk_iff.2 hoff)
  | _ =>
    simp only [exec, execInit, execStart, execAbort, execByteAmNak, execByteAmRd, execByteAmWr, execByteAmPost,
      execByteRaNak, execByteRaLoad, execByteRaPost, execByteMrPre, execByteMrNak, execByteMwPost, execByteIdPre,
      execByteIdPost, execByteIll5, execByteIll67, execStop, execDrainHit, execDrainMiss, execDrainT, execDrainC,
      execOngoing, execHrd, execHwr] at h
    (repeat' split at h) <;> cases h

/-! ### INIT (R7, R160, U1, U5) -/

theorem configLegal_iff {g : InitArgs} :
    configLegal g = true ↔ g.addr < 128 ∧ 1 ≤ g.n ∧ g.n ≤ 256 ∧ (∀ ms, g.mask = .perReg ms → g.n ≤ ms.length) ∧
      g.n ≤ g.reg.length := by
  cases hm : g.mask <;> simp [configLegal, hm, and_assoc]

theorem exec_init_secondInit {g : InitArgs} (h : s.inited = true) : exec (.init g) s = .refused .secondInit := by
  show execInit g s = _
  rw [execInit, if_pos h]

theorem exec_init_illegalConfig {g : InitArgs} (h : s.inited = false)
    (hbad : ¬ (configLegal g = true ∧ paramsLegal s.params = true)) :
    exec (.init g) s = .refused .illegalConfig := by
  show execInit g s = _
  rw [← Bool.and_eq_true, Bool.not_eq_true] at hbad
  simp [execInit, h, hbad]

end

/-- What the register file and the mask file read after INIT: the entries of the list it took the first `n` of. -/
theorem getElem?_eq_read_ofBytes_take {vs : List Byte} {n k : Nat} (hk : k < n) (hlen : n ≤ vs.length) :
    vs[k]? = some (Memory.read (Memory.ofBytes 0 (vs.take n)) k) := by
  have hread := Memory.read_ofBytes 0 k (vs.take n)
  rw [Nat.zero_add] at hread
  rw [hread, List.getD_eq_getElem?_getD, List.getElem?_take_of_lt hk, List.getElem?_eq_getElem (by omega)]
  rfl

/-! ### The obligations -/

/-- Settles O13: before INIT the gate of every other operation refuses with this name. -/
theorem beforeInitOnlyInit : Obligations.BeforeInitOnlyInit := fun _ _ hs hinit =>
  exec_refused_of_gate (gate_notInited hs hinit)

/-- Settles O43: `eventGate`, which every operation but INIT and BYTE passes, refuses a reserved state code. -/
theorem reservedStateRefusesOthers : Obligations.ReservedStateRefusesOthers := fun _ _ hs hres hb hinit =>
  exec_refused_of_gate (gate_reserved hs hres hb hinit)

/-- Settles O46: what completes was enabled, and with the pointer inside the file what is enabled completes. -/
theorem completesExactlyWhenEnabled : Obligations.CompletesExactlyWhenEnabled := fun _ _ hs =>
  ⟨fun ⟨_, ht⟩ => enabled_of_exec_next ht, exists_exec_next_of_enabled hs.ptr⟩

/-- Settles O47: the invariants keep the pointer inside the file, which leaves SCLLOW's fault alone. -/
theorem faultsOnlyInStartWait : Obligations.FaultsOnlyInStartWait := by
  constructor
  · intro i s f hs hinit
    constructor
    · intro h
      exact (exec_fault_cases h).resolve_right (not_not.2 hs.ptr)
    · rintro ⟨rfl, rfl, hsw, hscl, habort⟩
      rw [exec_scllow_startWait ⟨hinit, hs.fiveStates⟩ hsw hscl, habort]
      rfl
  · intro s hs hinit hsw hscl habort
    rw [exec_scllow_startWait ⟨hinit, hs.fiveStates⟩ hsw hscl, habort]
    rfl

/-- Settles O12: a second INIT is refused first; each range of R6 that is left makes the configuration or the
parameters illegal. -/
theorem initRefusals : Obligations.InitRefusals := by
  refine ⟨fun g s => exec_init_secondInit, fun g s hinit hout => exec_init_illegalConfig hinit ?_⟩
  rintro ⟨hg, hp⟩
  obtain ⟨haddr, hlow, hhigh, hmask, hreg⟩ := configLegal_iff.1 hg
  have hw : 1 ≤ s.params.dirtyW := of_decide_eq_true hp
  rcases hout with h | h | h | h | h | ⟨ms, hms, h⟩
  · omega
  · omega
  · omega
  · omega
  · omega
  · have := hmask ms hms
    omega

/-- Settles O11: `afterInit` field by field; the two files read as the lists INIT was given. -/
theorem initConfiguresAndResets : Obligations.InitConfiguresAndResets := by
  intro g s hinit hg hw
  obtain ⟨haddr, hlow, hhigh, hmask, hreg⟩ := configLegal_iff.1 hg
  refine ⟨afterInit g s, exec_init_next.2 ⟨⟨hinit, hg, decide_eq_true hw⟩, rfl⟩, rfl,
    Nat.mod_eq_of_lt haddr, (configLegal_n hg).1, fun m hm => ?_, fun ms hm => ?_,
    fun i hi => getElem?_eq_read_ofBytes_take hi hreg,
    rfl, rfl, rfl, rfl, rfl, rfl, rfl, rfl, rfl, rfl, rfl, rfl, rfl, rfl⟩
  · simp [wmask, modeOf, globalByte, hm]
  · refine ⟨by simp [modeOf, hm], fun i hi => ?_⟩
    rw [getElem?_eq_read_ofBytes_take hi (hmask ms hm)]
    simp [wmask, modeOf, maskBytes, hm]

end Sys2Proof

/-! ## What an operation writes and what it leaves (10_state.md R21, R25, R27, R28; 20_memory.md R56; 60_exceptions.md R188) -/

namespace Sys2Proof

open Machine

section

variable {i : Instr} {s t : State}

theorem inited_of_exec_next (hinit : ∀ g, i ≠ .init g) (h : exec i s = .next t) : s.inited = true := by
  by_contra hs
  rw [exec_refused_of_gate (gate_notInited (eq_false_of_ne_true hs) hinit)] at h
  cases h

theorem ne_init_of_exec_next (hs : s.inited = true) (h : exec i s = .next t) (g : InitArgs) : i ≠ .init g := by
  rintro rfl
  rw [exec_init_secondInit hs] at h
  cases h

/-! ### The configuration and the register file -/

theorem exec_config (hinit : ∀ g, i ≠ .init g) (h : exec i s = .next t) :
    t.addr = s.addr ∧ t.n = s.n ∧ t.maskMode = s.maskMode ∧ t.gmask = s.gmask ∧ t.mask = s.mask := by
  revert hinit
  apply exec_inversion (fun i s t => (∀ g, i ≠ .init g) →
    t.addr = s.addr ∧ t.n = s.n ∧ t.maskMode = s.maskMode ∧ t.gmask = s.gmask ∧ t.mask = s.mask) (h := h)
  case h_init => exact fun _ g _ hinit => absurd rfl (hinit g)
  case h_start | h_drainT | h_drainC => intros; split <;> exact ⟨rfl, rfl, rfl, rfl, rfl⟩
  all_goals intros; exact ⟨rfl, rfl, rfl, rfl, rfl⟩

theorem exec_reg (h : exec i s = .next t) :
    t.reg = s.reg ∨ (∃ g, i = .init g) ∨ (∃ k v, i = .hwr k v) ∨ ∃ rx, i = .byteMwData rx := by
  apply exec_inversion (fun i s t => t.reg = s.reg ∨ (∃ g, i = .init g) ∨ (∃ k v, i = .hwr k v) ∨
    ∃ rx, i = .byteMwData rx) (h := h)
  case h_init => exact fun _ g _ => .inr (.inl ⟨g, rfl⟩)
  case h_hwr => exact fun _ k v _ => .inr (.inr (.inl ⟨k, v, rfl⟩))
  case h_byteMwData => exact fun _ rx _ _ => .inr (.inr (.inr ⟨rx, rfl⟩))
  case h_start | h_drainT | h_drainC => intros; split <;> exact .inl rfl
  all_goals intros; exact .inl rfl

/-- The mask law keeps the bits whose mask bit is 0 (R132). -/
theorem maskedByte_and_not (o v m : Byte) : maskedByte o v m &&& ~~~m = o &&& ~~~m := by
  apply BitVec.eq_of_getLsbD_eq
  intro k hk
  simp only [BitVec.getLsbD_and, BitVec.getLsbD_not, maskedByte_getLsbD _ _ _ hk]
  cases m.getLsbD k <;> simp

theorem regAt_storeMasked_and_not_wmask (hwf : Memory.wf s.reg) (rx k : Byte) :
    regAt (storeMasked rx s) k &&& ~~~ wmask s k = regAt s k &&& ~~~ wmask s k := by
  unfold regAt
  rw [storeMasked_reg, Memory.read_write s.reg hwf]
  split
  case isTrue hk =>
    obtain rfl := BitVec.eq_of_toNat_eq hk
    exact maskedByte_and_not _ _ _
  case isFalse => rfl

/-! ### The register pointer (R25) -/

/-- The pointer after an operation: the value its writers give it, and the old one after every other. -/
def ptrAfter (s : State) : Instr → Byte
  | .init _ | .byteAmWr _ | .byteMrNak _ => 0
  | .byteRaLoad rx => rx
  | .byteMwData _ | .byteMrAck _ => nextPtr s.n s.off
  | .start | .scllow | .abort | .byteAmNak _ | .byteAmRd _ | .byteAmPost _ | .byteRaNak _ | .byteRaPost _
  | .byteMrPre _ | .byteMwPost _ | .byteIdPre _ | .byteIdPost _ | .byteIll5 _ | .byteIll67 _ | .stop | .drainHit
  | .drainMiss | .drainT | .drainC | .ongoing | .hrd _ | .hwr _ _ => s.off

theorem exec_off (h : exec i s = .next t) : t.off = ptrAfter s i := by
  apply exec_inversion (fun i s t => t.off = ptrAfter s i) (h := h)
  case h_start | h_drainT | h_drainC => intros; split <;> rfl
  all_goals intros; rfl

/-! ### The count (R27) -/

theorem hitsAt_of_isDataWrite (hd : isDataWrite i = true) : hitsAt s i = false ∧ ∀ g, i ≠ .init g := by
  cases i with
  | byteMwData _ => exact ⟨rfl, nofun⟩
  | _ => cases hd

theorem exec_dirty_of_hit (hhit : hitsAt s i = true) (h : exec i s = .next t) : t.dirty = 0 := by
  cases i with
  | drainHit =>
    obtain ⟨-, rfl⟩ := exec_drainHit_next.1 h
    rfl
  | drainC =>
    obtain ⟨-, rfl⟩ := exec_drainC_next.1 h
    rw [if_pos (show s.stopPending = true from hhit)]
    rfl
  | _ => cases hhit

/-! ### Host calls (R168, R188) -/

/-- The three things a host call can do: a DRAIN that hits, HWR's store, or no more than its result and `armed`. -/
theorem exec_hostCall_cases (hc : isHostCall i = true) (h : exec i s = .next t) :
    (hitsAt s i = true ∧ s.stopPending = true ∧ ∃ a, t = drainEffect { s with armed := a }) ∨
    (∃ a r, t = { s with armed := a, result := r }) ∨
    (∃ k v, i = .hwr k v ∧ (s.st = .idle ∨ s.st = .addressMatch) ∧ t = storeReg k v s) := by
  cases i with
  | drainHit =>
    obtain ⟨⟨-, hsel⟩, rfl⟩ := exec_drainHit_next.1 h
    obtain ⟨-, -, hstop⟩ := selected_ctxOf_drainHit.1 hsel
    exact .inl ⟨rfl, hstop, s.armed, rfl⟩
  | drainMiss =>
    obtain ⟨-, rfl⟩ := exec_drainMiss_next.1 h
    exact .inr (.inl ⟨_, _, rfl⟩)
  | drainT =>
    obtain ⟨-, rfl⟩ := exec_drainT_next.1 h
    split <;> exact .inr (.inl ⟨_, _, rfl⟩)
  | drainC =>
    obtain ⟨-, rfl⟩ := exec_drainC_next.1 h
    split
    case isTrue hstop => exact .inl ⟨hstop, hstop, false, rfl⟩
    case isFalse => exact .inr (.inl ⟨_, _, rfl⟩)
  | ongoing =>
    obtain ⟨-, rfl⟩ := exec_ongoing_next.1 h
    exact .inr (.inl ⟨_, _, rfl⟩)
  | hrd j =>
    obtain ⟨-, rfl⟩ := exec_hrd_next.1 h
    exact .inr (.inl ⟨_, _, rfl⟩)
  | hwr j v =>
    obtain ⟨⟨-, -, hst⟩, rfl⟩ := exec_hwr_next.1 h
    exact .inr (.inr ⟨j, v, rfl, ongoing_eq_false_iff.1 hst, rfl⟩)
  | _ => cases hc

/-! ### BYTE (R111, R154) -/

theorem exec_ph_of_isByte (hb : isByte i = true) (h : exec i s = .next t) : t.ph = flipPhase s.ph := by
  revert hb
  apply exec_inversion (fun i s t => isByte i = true → t.ph = flipPhase s.ph) (h := h)
  case h_init | h_start | h_scllow | h_abort | h_stop | h_drainHit | h_drainMiss | h_drainT | h_drainC | h_ongoing
    | h_hrd | h_hwr => intros; contradiction
  all_goals intros; rfl

theorem flipPhase_ne (p : Phase) : flipPhase p ≠ p := by
  cases p <;> nofun

/-- No BYTE row reads the drive, and each writes it. -/
theorem exec_of_drv (hb : isByte i = true) (d : Drive) : exec i { s with drv := d } = exec i s := by
  cases i with
  | init _ | start | scllow | abort | stop | drainHit | drainMiss | drainT | drainC | ongoing | hrd _
  | hwr _ _ => cases hb
  | byteMrAck rx =>
    show execByteMrAck rx { s with drv := d } = execByteMrAck rx s
    simp only [execByteMrAck, advanceAndLoad_eq]
    rfl
  | _ => rfl

/-- In Idle every BYTE releases the line and inverts the phase (R150, R151). -/
theorem exec_byte_of_idle (hst : s.st = .idle) (hb : isByte i = true) (h : exec i s = .next t) :
    t = endByte (drive .release s) := by
  obtain ⟨-, -, hsel⟩ := byteReady_of_exec_next hb h
  have hidle : goTo .idle (drive .release s) = drive .release s := goTo_of_st hst
  have hrow := decodeByte_of_selected hb hsel
  rw [← hidle]
  cases hph : s.ph with
  | pre =>
    rw [← hrow, show decodeByte (ctxOf s) i.operandA = .byteIdPre i.operandA by simp [decodeByte, ctxOf, hst, hph]] at h
    exact (exec_byteIdPre_next.1 h).2
  | post =>
    rw [← hrow, show decodeByte (ctxOf s) i.operandA = .byteIdPost i.operandA by simp [decodeByte, ctxOf, hst, hph]] at h
    exact (exec_byteIdPost_next.1 h).2

theorem exec_byteMrNak_of_nakBit {rx ry : Byte} (h : nakBit rx = nakBit ry) (s : State) :
    exec (.byteMrNak rx) s = exec (.byteMrNak ry) s := by
  have hsel : selected (ctxOf s) (.byteMrNak rx) = selected (ctxOf s) (.byteMrNak ry) := by
    simp only [selected, rowCond, h]
    rfl
  simp only [exec, execByteMrNak, byteGate, hsel]

theorem exec_byteMrAck_of_nakBit {rx ry : Byte} (h : nakBit rx = nakBit ry) (s : State) :
    exec (.byteMrAck rx) s = exec (.byteMrAck ry) s := by
  have hsel : selected (ctxOf s) (.byteMrAck rx) = selected (ctxOf s) (.byteMrAck ry) := by
    simp only [selected, rowCond, h]
    rfl
  simp only [exec, execByteMrAck, byteGate, hsel]

theorem exec_st_of_idle (hst : s.st = .idle) (hi : i ≠ .start) (h : exec i s = .next t) : t.st = .idle := by
  cases hb : isByte i with
  | true =>
    rw [exec_byte_of_idle hst hb h]
    exact hst
  | false =>
    cases hc : isHostCall i with
    | true =>
      obtain ⟨-, -, a, rfl⟩ | ⟨a, r, rfl⟩ | ⟨k, v, -, -, rfl⟩ := exec_hostCall_cases hc h
      · rfl
      · exact hst
      · exact hst
    | false =>
      cases i with
      | start => exact absurd rfl hi
      | init g =>
        obtain ⟨-, rfl⟩ := exec_init_next.1 h
        rfl
      | scllow =>
        obtain ⟨-, rfl⟩ := exec_scllow_next.1 h
        exact hst
      | abort =>
        obtain ⟨-, rfl⟩ := exec_abort_next.1 h
        rfl
      | stop =>
        obtain ⟨-, rfl⟩ := exec_stop_next.1 h
        exact hst
      | drainHit | drainMiss | drainT | drainC | ongoing | hrd _ | hwr _ _ => cases hc
      | _ => cases hb

/-! ### The start wait (R103) -/

theorem exec_leaves_startWait (hinit : s.inited = true) (hsw : s.sw = true) (h : exec i s = .next t)
    (hsw' : t.sw = false) :
    (i = .scllow ∧ s.scl = false) ∨ (i = .abort ∧ s.params.startWaitAbort = true) := by
  have hpass : ¬ (isByte i = true ∨ isHostCall i = true) := fun hi => by
    obtain ⟨r, hr⟩ := gate_startWait hsw hi
    rw [exec_refused_of_gate hr] at h
    cases h
  cases i with
  | init g => exact absurd rfl (ne_init_of_exec_next hinit h g)
  | start =>
    obtain ⟨-, rfl⟩ := exec_start_next.1 h
    rw [if_pos hsw, clearStop_sw, hsw] at hsw'
    cases hsw'
  | scllow =>
    obtain ⟨⟨-, -, hscl⟩, -⟩ := exec_scllow_next.1 h
    exact .inl ⟨rfl, hscl⟩
  | abort =>
    obtain ⟨⟨-, -, habort⟩, -⟩ := exec_abort_next.1 h
    exact .inr ⟨rfl, habort⟩
  | stop =>
    obtain ⟨-, rfl⟩ := exec_stop_next.1 h
    rw [hsw] at hsw'
    cases hsw'
  | drainHit | drainMiss | drainT | drainC | ongoing | hrd _ | hwr _ _ => exact absurd (.inr rfl) hpass
  | _ => exact absurd (.inl rfl) hpass

end

/-! ### The obligations -/

/-- Settles O53: `exec_reg` names the three writers. -/
theorem onlyThreeOperationsWriteRegisters : Obligations.OnlyThreeOperationsWriteRegisters := fun _ _ _ h hne =>
  (exec_reg h).resolve_left hne

/-- Settles O55: `exec_params`, and after INIT `exec_config` of every operation, since a second INIT is refused. -/
theorem configurationIsConstant : Obligations.ConfigurationIsConstant := fun _ _ _ h =>
  ⟨exec_params h, fun hs => ⟨exec_inited h hs, exec_config (ne_init_of_exec_next hs h) h⟩⟩

/-- Settles O54: of the bus's operations only BYTE.MW.DATA writes a register, and it writes through the mask. -/
theorem busRespectsWriteMask : Obligations.BusRespectsWriteMask := by
  intro i s t k hwf hinit hhwr h
  obtain hreg | ⟨g, rfl⟩ | ⟨j, v, rfl⟩ | ⟨rx, rfl⟩ := exec_reg h
  · rw [regAt, hreg, ← regAt]
  · exact absurd rfl (hinit g)
  · exact absurd rfl (hhwr j v)
  · obtain ⟨-, rfl⟩ := exec_byteMwData_next.1 h
    exact regAt_storeMasked_and_not_wmask hwf rx k

/-- Settles O56: `ptrAfter` at each of the writers, and at the operations that are none of them. -/
theorem pointerWriters : Obligations.PointerWriters := by
  intro i s t h
  rw [exec_off h]
  refine ⟨?_, ?_, ?_, fun hresets hload hadvances => ?_⟩
  · rintro (⟨g, rfl⟩ | ⟨rx, rfl⟩ | ⟨rx, rfl⟩) <;> rfl
  · rintro rx rfl
    rfl
  · rintro (⟨rx, rfl⟩ | ⟨rx, rfl⟩) <;> rfl
  · cases i with
    | init g => exact absurd (.inl ⟨g, rfl⟩) hresets
    | byteAmWr rx => exact absurd (.inr (.inl ⟨rx, rfl⟩)) hresets
    | byteMrNak rx => exact absurd (.inr (.inr ⟨rx, rfl⟩)) hresets
    | byteRaLoad rx => exact absurd rfl (hload rx)
    | byteMwData rx => exact absurd (.inl ⟨rx, rfl⟩) hadvances
    | byteMrAck rx => exact absurd (.inr ⟨rx, rfl⟩) hadvances
    | _ => rfl

/-- Settles O57: `exec_dirty` where no DRAIN hits, `exec_dirty_of_hit` where one does. -/
theorem dirtyWriters : Obligations.DirtyWriters := by
  intro i s t h
  refine ⟨fun hd => ?_, ?_, fun hd hmiss hinit => ?_⟩
  · obtain ⟨hmiss, hinit⟩ := hitsAt_of_isDataWrite (s := s) hd
    rw [exec_dirty h (inited_of_exec_next hinit h) hmiss, if_pos hd, nextDirty]
  · rintro (hhit | ⟨g, rfl⟩)
    · exact exec_dirty_of_hit hhit h
    · obtain ⟨-, rfl⟩ := exec_init_next.1 h
      rfl
  · rw [exec_dirty h (inited_of_exec_next hinit h) hmiss, hd]
    rfl

/-- Settles O58: each clause is read off the three things a host call can do. -/
theorem hostContextRights : Obligations.HostContextRights := by
  intro i s t hc h
  obtain ⟨hhit, -, a, rfl⟩ | ⟨a, r, rfl⟩ | ⟨k, v, hi, hst, rfl⟩ := exec_hostCall_cases hc h
  · exact ⟨rfl, rfl, rfl, rfl, rfl, .inr ⟨hhit, rfl⟩, .inl rfl⟩
  · exact ⟨rfl, rfl, rfl, rfl, rfl, .inl rfl, .inl rfl⟩
  · exact ⟨rfl, rfl, rfl, rfl, rfl, .inl rfl, .inr ⟨⟨k, v, hi⟩, hst⟩⟩

/-- Settles O38: of what a host call can do only a DRAIN that hits changes the count or the state; both forms of START
clear the flag. -/
theorem drainCountsExactly : Obligations.DrainCountsExactly := by
  constructor
  · intro i s t hc h hne
    obtain ⟨-, hstop, a, rfl⟩ | ⟨a, r, rfl⟩ | ⟨k, v, -, -, rfl⟩ := exec_hostCall_cases hc h
    · exact ⟨hstop, rfl, rfl, rfl⟩
    · exact absurd hne (not_or.2 ⟨not_not.2 rfl, not_not.2 rfl⟩)
    · exact absurd hne (not_or.2 ⟨not_not.2 rfl, not_not.2 rfl⟩)
  · intro s t h
    obtain ⟨-, rfl⟩ := exec_start_next.1 h
    split <;> rfl

/-- Settles O49: the common tail inverts the phase, and every row writes the drive without reading it. -/
theorem bytesFlipPhaseAndRedrive : Obligations.BytesFlipPhaseAndRedrive :=
  ⟨fun _ s _ hb h => exec_ph_of_isByte hb h ▸ flipPhase_ne s.ph, fun _ _ d hb => exec_of_drv hb d⟩

/-- Settles O51: in the start wait the gates refuse every BYTE and host call, and of the rest two end the wait. -/
theorem onlyScllowOrAbortEndsWait : Obligations.OnlyScllowOrAbortEndsWait := by
  intro i s hinit hsw
  refine ⟨fun hi => ?_, fun t => exec_leaves_startWait hinit hsw⟩
  obtain ⟨r, hr⟩ := gate_startWait hsw hi
  exact ⟨r, exec_refused_of_gate hr⟩

/-- Settles O52: `exec_st_of_idle`, and for a BYTE `exec_byte_of_idle`. -/
theorem idleLeftOnlyByStart : Obligations.IdleLeftOnlyByStart := by
  intro i s t hst h
  constructor
  · intro hne
    by_contra hi
    exact hne (exec_st_of_idle hst hi h)
  · intro hb
    rw [exec_byte_of_idle hst hb h]
    exact ⟨rfl, rfl, rfl, rfl⟩

/-- Settles O50: the row is chosen by state and phase, in a read's second half also by bit 0, and no row named here uses
its operand further. -/
theorem ignoredOperandHasNoEffect : Obligations.IgnoredOperandHasNoEffect := by
  constructor
  · rintro rx ry s (⟨hph, hst⟩ | ⟨hph, hst | hst⟩)
    · cases hcase : s.st with
      | masterRead => exact absurd hcase hst
      | _ =>
        simp only [execByte, decodeByte, ctxOf, hph, hcase]
        rfl
    · simp only [execByte, decodeByte, ctxOf, hph, hst]
      rfl
    · simp only [execByte, decodeByte, ctxOf, hph, hst]
      rfl
  · intro rx ry s hph hst hbit
    have hnak : nakBit rx = nakBit ry := hbit
    simp only [execByte, decodeByte, ctxOf, hph, hst, hnak]
    split
    · exact exec_byteMrNak_of_nakBit hnak s
    · exact exec_byteMrAck_of_nakBit hnak s

end Sys2Proof

/-! ## START, ABORT and STOP (40_start.md R100, R102, R104; 45_host_ops.md R161) -/

namespace Sys2Proof

open Machine

/-- Settles O14: outside the start wait START has its full effect. -/
theorem startResetsSequencer : Obligations.StartResetsSequencer := by
  intro s hinit hres hsw
  refine exec_start_next.2 ⟨⟨hinit, hres⟩, ?_⟩
  rw [hsw]
  rfl

/-- Settles O15: in the start wait only the serial interface's flag is written. -/
theorem startWhileWaitingIsAbsorbed : Obligations.StartWhileWaitingIsAbsorbed := by
  intro s hinit hres hsw
  refine exec_start_next.2 ⟨⟨hinit, hres⟩, ?_⟩
  rw [if_pos hsw, clearStop]

/-- Settles O17: ABORT completes where both conditions hold, and is refused by the name of the one that does not. -/
theorem abortGivesUpWait : Obligations.AbortGivesUpWait := by
  intro s hinit hres
  have hgate : eventGate s = none := eventGate_none.2 ⟨hinit, hres⟩
  refine ⟨fun hsw habort => exec_abort_next.2 ⟨⟨⟨hinit, hres⟩, hsw, habort⟩, rfl⟩, fun hsw habort => ?_, fun hsw => ?_⟩
  · simp [exec, execAbort, hgate, hsw, habort]
  · simp [exec, execAbort, hgate, hsw]

/-- Settles O32: STOP is enabled in every live state, whatever `sw` is. -/
theorem stopOnlySetsFlag : Obligations.StopOnlySetsFlag := fun _ hinit hres =>
  exec_stop_next.2 ⟨⟨hinit, hres⟩, rfl⟩

end Sys2Proof

/-! ## BYTE: addressed, and the halves after the acknowledge (41_byte_address.md R115, R116, R119; 42_master_write.md R131) -/

namespace Sys2Proof

open Machine

/-- Settles O19: the table selects BYTE.AM.RD for a match with the read bit set, and the pointer is not among its
assignments. -/
theorem addressedForReading : Obligations.AddressedForReading := by
  intro rx s hinit hsw hst hph ha hr
  have hready : byteReady (.byteAmRd rx) s := ⟨hinit, hsw, selected_byteAmRd.2 ⟨hst, hph, ha, hr⟩⟩
  exact exec_byteAmRd_next.2 ⟨hready, (endByte_of_pre (s := goTo .masterRead (drive .ackLow s)) hph).symm⟩

/-- Settles O20: the table selects BYTE.AM.WR for a match with the read bit clear, and its effect resets the pointer. -/
theorem addressedForWriting : Obligations.AddressedForWriting := by
  intro rx s hinit hsw hst hph ha hr
  have hready : byteReady (.byteAmWr rx) s := ⟨hinit, hsw, selected_byteAmWr.2 ⟨hst, hph, ha, hr⟩⟩
  exact exec_byteAmWr_next.2
    ⟨hready, (endByte_of_pre (s := goTo .registerAddress (setPtr 0 (drive .ackLow s))) hph).symm⟩

/-- Settles O23: either state selects its own row in phase post, and both rows only release the line. -/
theorem acknowledgeHalvesAreTransparent : Obligations.AcknowledgeHalvesAreTransparent := by
  intro rx s hinit hsw hph
  have heffect : endByte (drive .release s) = { s with drv := .release, ph := .pre } :=
    endByte_of_post (s := drive .release s) hph
  constructor
  · intro hst
    have hready : byteReady (.byteRaPost rx) s := ⟨hinit, hsw, selected_byteRaPost.2 ⟨hst, hph⟩⟩
    exact exec_byteRaPost_next.2 ⟨hready, heffect.symm⟩
  · intro hst
    have hready : byteReady (.byteMwPost rx) s := ⟨hinit, hsw, selected_byteMwPost.2 ⟨hst, hph⟩⟩
    exact exec_byteMwPost_next.2 ⟨hready, heffect.symm⟩

end Sys2Proof

/-! ## BYTE: the data byte of a write and the bytes of a read (42_master_write.md R130; 43_master_read.md R140, R142, R143) -/

namespace Sys2Proof

open Machine

/-- Settles O24: the store is one write of the register file at the old pointer, and the rest of `afterData` is its other
assignments. -/
theorem dataByteIsStoredThroughMask : Obligations.DataByteIsStoredThroughMask := by
  intro rx s hinit hsw hst hph hwf hoff
  have hready : byteReady (.byteMwData rx) s := ⟨hinit, hsw, selected_byteMwData.2 ⟨hst, hph⟩⟩
  refine ⟨afterData rx s, exec_byteMwData_next.2 ⟨⟨hready, hoff⟩, rfl⟩, Memory.read_write_same s.reg hwf _ _,
    fun k hk => Memory.read_write_other s.reg hwf _ hk, rfl, rfl, ?_⟩
  exact endByte_of_pre (s := drive .ackLow (advancePtr (countWrite (storeMasked rx s)))) hph

/-- Settles O26: the table selects BYTE.MR.PRE by state and phase, and its effect is the release. -/
theorem readReleasesForAcknowledge : Obligations.ReadReleasesForAcknowledge := by
  intro rx s hinit hsw hst hph
  have hready : byteReady (.byteMrPre rx) s := ⟨hinit, hsw, selected_byteMrPre.2 ⟨hst, hph⟩⟩
  exact exec_byteMrPre_next.2 ⟨hready, (endByte_of_pre (s := drive .release s) hph).symm⟩

/-- R142 in one form for both orders: the pointer advances, and the byte loaded is the one at `loadPtr`. -/
theorem exec_byteMrAck_of_ack {rx : Byte} {s : State} (hinit : s.inited = true) (hsw : s.sw = false)
    (hst : s.st = .masterRead) (hph : s.ph = .post) (hack : rx.getLsbD 0 = false) (hoff : s.off.toNat < s.n.toNat) :
    exec (.byteMrAck rx) s =
      .next { s with off := nextPtr s.n s.off, drv := .byte (regAt s (loadPtr s)), ph := .pre } := by
  have hready : byteReady (.byteMrAck rx) s := ⟨hinit, hsw, selected_byteMrAck.2 ⟨hst, hph, hack⟩⟩
  refine exec_byteMrAck_next.2 ⟨⟨hready, loadPtr_lt hoff⟩, ?_⟩
  rw [advanceAndLoad_eq]
  exact (endByte_of_post
    (s := { s with off := nextPtr s.n s.off, drv := .byte (regAt s (loadPtr s)) }) hph).symm

theorem loadPtr_advanceThenLoad {s : State} (h : s.params.readOrder = .advanceThenLoad) :
    loadPtr s = nextPtr s.n s.off := by
  rw [loadPtr, h]

theorem loadPtr_loadThenAdvance {s : State} (h : s.params.readOrder = .loadThenAdvance) : loadPtr s = s.off := by
  rw [loadPtr, h]

/-- Settles O28: `exec_byteMrAck_of_ack`, with `loadPtr` at either order. -/
theorem masterAckSendsNextRegister : Obligations.MasterAckSendsNextRegister := by
  intro rx s hinit hsw hst hph hack hoff
  have hexec := exec_byteMrAck_of_ack hinit hsw hst hph hack hoff
  constructor
  · intro horder
    rw [hexec, loadPtr_advanceThenLoad horder]
    rfl
  · intro horder
    rw [hexec, loadPtr_loadThenAdvance horder]
    rfl

/-- What BYTE.AM.RD leaves, before the master's acknowledge bit (R115). -/
def addressedForRead (s : State) : State := { s with drv := .ackLow, st := .masterRead, ph := .post }

theorem execByte_addressedForRead {addrByte : Byte} {s : State} (hinit : s.inited = true) (hsw : s.sw = false)
    (hst : s.st = .addressMatch) (hph : s.ph = .pre) (ha : addrField addrByte = s.addr ∨ addrField addrByte = 0)
    (hr : readBit addrByte = true) : execByte addrByte s = .next (addressedForRead s) := by
  have hrow : decodeByte (ctxOf s) addrByte = .byteAmRd addrByte := by
    simp [decodeByte, ctxOf, hst, hph, addrMatch_iff.2 ha, hr]
  rw [execByte, hrow]
  exact addressedForReading addrByte s hinit hsw hst hph ha hr

theorem execByte_ackOfRead {ack : Byte} {s : State} (hinit : s.inited = true) (hsw : s.sw = false)
    (hst : s.st = .masterRead) (hph : s.ph = .post) (hack : nakBit ack = false) (hoff : s.off.toNat < s.n.toNat) :
    execByte ack s = .next { s with off := nextPtr s.n s.off, drv := .byte (regAt s (loadPtr s)), ph := .pre } := by
  have hrow : decodeByte (ctxOf s) ack = .byteMrAck ack := by
    simp [decodeByte, ctxOf, hst, hph, hack]
  rw [execByte, hrow]
  exact exec_byteMrAck_of_ack hinit hsw hst hph hack hoff

/-- Settles O29: the address byte leads to `(MasterRead, post)` with the pointer kept, and the master's acknowledge loads
the first byte there. -/
theorem firstByteOfRead : Obligations.FirstByteOfRead := by
  intro addrByte ack s hs hinit hsw hst hph ha hr hack
  have hptr : (nextPtr s.n s.off).toNat = (s.off.toNat + 1) % s.n.toNat := nextPtr_toNat hs.ptr hs.size
  refine ⟨_, _, execByte_addressedForRead hinit hsw hst hph ha hr, rfl,
    execByte_ackOfRead (s := addressedForRead s) hinit hsw rfl rfl hack hs.ptr, rfl, hptr,
    fun horder => ?_, fun horder => ?_⟩
  · rw [← hptr, loadPtr_advanceThenLoad (s := addressedForRead s) horder]
    rfl
  · rw [loadPtr_loadThenAdvance (s := addressedForRead s) horder]
    rfl

end Sys2Proof

/-! ## The host's calls: the split DRAIN, HRD and HWR (45_host_ops.md R162, R166, R167, R170) -/

namespace Sys2Proof

open Machine

section

variable {s : State}

theorem exec_drainT_of_inner (hready : hostReady s) (hinner : s.params.drainAtomicity = .inner) :
    exec .drainT s = .next (if s.st = .masterWrite ∧ 0 < s.dirty then { s with armed := true, result := .armed }
      else giveResult (.count 0) s) :=
  exec_drainT_next.2 ⟨⟨hready, hinner⟩, rfl⟩

theorem exec_drainC_of_armed (hlive : live s) (hsw : s.sw = false) (harmed : s.armed = true)
    (hinner : s.params.drainAtomicity = .inner) :
    exec .drainC s = .next (if s.stopPending then drainEffect { s with armed := false }
      else giveResult (.count 0) { s with armed := false }) :=
  exec_drainC_next.2 ⟨⟨⟨hlive, hsw⟩, harmed, hinner⟩, rfl⟩

/-- The word of the whole DRAIN (R74, R162). -/
theorem decode_wholeDrain (c : Ctx) :
    decode c 0x50000 none = .instr (if drainHits c then .drainHit else .drainMiss) := rfl

theorem drainHits_ctxOf :
    drainHits (ctxOf s) = true ↔ (s.st = .masterWrite ∧ 0 < s.dirty) ∧ s.stopPending = true := by
  rw [← selected_drainHit_iff_drainHits, selected_ctxOf_drainHit, and_assoc]

/-- The whole DRAIN with its row chosen by the condition (R162 to R164). -/
theorem exec_wholeDrain (hready : hostReady s) :
    exec (if drainHits (ctxOf s) then .drainHit else .drainMiss) s =
      .next (if drainHits (ctxOf s) then drainEffect s else giveResult (.count 0) s) := by
  split
  case isTrue hhit => exact exec_drainHit_next.2 ⟨⟨hready, selected_drainHit_iff_drainHits.2 hhit⟩, rfl⟩
  case isFalse hmiss =>
    exact exec_drainMiss_next.2
      ⟨⟨hready, selected_drainMiss_iff_not_drainHits.2 (eq_false_of_ne_true hmiss)⟩, rfl⟩

end

/-- Settles O35: the test is the condition of `exec_drainT_of_inner`; under `WHOLE` it is refused. -/
theorem drainTestArms : Obligations.DrainTestArms := by
  intro s hinit hres hsw harmed
  have hready : hostReady s := ⟨⟨hinit, hres⟩, hsw, harmed⟩
  refine ⟨fun hinner hst hdirty => ?_, fun hinner hmiss => ?_, fun hwhole => ?_⟩
  · rw [exec_drainT_of_inner hready hinner, if_pos ⟨hst, hdirty⟩]
  · have htest : ¬ (s.st = .masterWrite ∧ 0 < s.dirty) := fun ⟨hst, hdirty⟩ => hmiss.elim (· hst) hdirty.ne'
    rw [exec_drainT_of_inner hready hinner, if_neg htest, giveResult]
  · simp [exec, execDrainT, hostGate_none.2 hready, hwhole]

/-- Settles O36: the flag chooses in `exec_drainC_of_armed`; unarmed it is refused. -/
theorem drainCriticalSection : Obligations.DrainCriticalSection := by
  intro s hinit hres hsw hinner
  refine ⟨fun harmed hstop => ?_, fun harmed hstop => ?_, fun harmed => ?_⟩
  · rw [exec_drainC_of_armed ⟨hinit, hres⟩ hsw harmed hinner, hstop]
    rfl
  · rw [exec_drainC_of_armed ⟨hinit, hres⟩ hsw harmed hinner, hstop]
    rfl
  · simp [exec, execDrainC, threadGate_none.2 ⟨⟨hinit, hres⟩, hsw⟩, hinner, harmed]

/-- Settles O37: both ways ask the same three conditions, the split one the flag last; disarmed again, the states are
equal. -/
theorem splitDrainIsWholeDrain : Obligations.SplitDrainIsWholeDrain := by
  intro s hinit hres hsw harmed hinner
  have hready : hostReady s := ⟨⟨hinit, hres⟩, hsw, harmed⟩
  refine ⟨_, _, _, decode_wholeDrain _, exec_wholeDrain hready, exec_drainT_of_inner hready hinner, ?_⟩
  by_cases htest : s.st = .masterWrite ∧ 0 < s.dirty
  · have hflag : drainHits (ctxOf s) = s.stopPending :=
      Bool.eq_iff_iff.2 (drainHits_ctxOf.trans (and_iff_right htest))
    have hhit : drainEffect { s with armed := false, result := .armed } = drainEffect s := by
      rw [drainEffect, drainEffect, harmed]
    have hmiss : giveResult (.count 0) { s with armed := false, result := .armed } = giveResult (.count 0) s := by
      rw [giveResult, giveResult, harmed]
    rw [if_pos htest, hflag]
    refine .inr ⟨rfl, ?_⟩
    rw [exec_drainC_of_armed (s := { s with armed := true, result := .armed }) ⟨hinit, hres⟩ hsw rfl hinner]
    dsimp only
    rw [hhit, hmiss]
  · have hmiss : ¬ drainHits (ctxOf s) = true := fun hhit => htest (drainHits_ctxOf.1 hhit).1
    rw [if_neg htest, if_neg hmiss]
    exact .inl ⟨harmed, rfl⟩

/-- Settles O40: HRD is enabled in every live state. -/
theorem hostReadReturnsRegister : Obligations.HostReadReturnsRegister := fun _ _ hinit hres hsw harmed hi =>
  exec_hrd_next.2 ⟨⟨⟨⟨hinit, hres⟩, hsw, harmed⟩, hi⟩, rfl⟩

/-- Settles O41: HWR is one write of the register file. -/
theorem hostWriteStoresWholeByte : Obligations.HostWriteStoresWholeByte := by
  intro i v s hinit hsw harmed hst hi hwf
  have hres : s.st.isReserved = false := by
    rcases hst with hst | hst <;> rw [hst] <;> rfl
  have hready : hostReady s := ⟨⟨hinit, hres⟩, hsw, harmed⟩
  exact ⟨storeReg i v s, exec_hwr_next.2 ⟨⟨hready, hi, ongoing_eq_false_iff.2 hst⟩, rfl⟩,
    Memory.read_write_same s.reg hwf _ v, fun k hk => Memory.read_write_other s.reg hwf v hk, rfl⟩

/-- Settles O42: the index is checked first, the transaction next. -/
theorem hostAccessRefusals : Obligations.HostAccessRefusals := by
  intro i v s hinit hres hsw harmed
  have hgate : hostGate s = none := hostGate_none.2 ⟨⟨hinit, hres⟩, hsw, harmed⟩
  constructor
  · intro hi
    have hout : indexOk s i = false := eq_false_of_ne_true fun hin => by
      have := indexOk_iff.1 hin
      omega
    constructor
    · simp [exec, execHrd, hgate, hout]
    · simp [exec, execHwr, hgate, hout]
  · intro hi hst
    have hongoing : ongoing s.st = true := by
      rcases hst with hst | hst | hst <;> rw [hst] <;> rfl
    simp [exec, execHwr, hgate, indexOk_iff.2 hi, hongoing]

end Sys2Proof
